-- ==== Sys2Proof/Word.lean ====
section
/-! DEFINITION. The word types: an 8-bit byte (a general register, the ALU, a memory cell) and a 16-bit word
(an address, PC, SP); 00_scope.md R8 (`XLEN8`, `ALEN`). -/

namespace Sys2Proof

/-- 8 bits: `XLEN8` of R8. -/
abbrev Byte := BitVec 8

/-- 16 bits: `ALEN` of R8. -/
abbrev Word := BitVec 16

end Sys2Proof
end

