-- ==== Sys2Proof/Machine/Bits.lean ====
section
/-! DEFINITION. Bit fields, byte order and sign extension (00_scope.md R9, R10; 20_memory.md R90). -/

namespace Sys2Proof.Machine

/-- `v[15:8]`. -/
def hiByte (w : Word) : Byte := BitVec.extractLsb' 8 8 w

/-- `v[7:0]`. -/
def loByte (w : Word) : Byte := BitVec.extractLsb' 0 8 w

/-- The concatenation `{hi, lo}` of R9. -/
def mkWord (hi lo : Byte) : Word := hi ++ lo

/-- `sext_16` of R10. -/
def sext16 (b : Byte) : Word := BitVec.signExtend 16 b

/-- `zext_16` of R10. -/
def zext16 (b : Byte) : Word := BitVec.setWidth 16 b

/-- `v[i]` of R9. -/
def bit (b : Byte) (i : Nat) : Bool := b.getLsbD i

/-- The byte with bit `i` cleared: `v & ~(1 << i)`. -/
def clearBit (b : Byte) (i : Nat) : Byte := b &&& ~~~(1#8 <<< i)

/-- The byte with bit `i` set: `v | (1 << i)`. -/
def setBit (b : Byte) (i : Nat) : Byte := b ||| (1#8 <<< i)

/-- `v[i] <- x`. -/
def putBit (b : Byte) (i : Nat) (x : Bool) : Byte := if x then setBit b i else clearBit b i

/-- `v[1:0] <- m`. -/
def putLow2 (b : Byte) (m : BitVec 2) : Byte := BitVec.extractLsb' 2 6 b ++ m

/-- The low nibble `v[3:0]` as an integer. -/
def loNibble (b : Byte) : Nat := b.toNat % 16

end Sys2Proof.Machine
end

