-- ==== Sys2Proof/Config.lean ====
section
/-! DEFINITION. What the spec leaves open for good, as constants with no body (free values: nothing can evaluate
them), and the types of the parameters of 00_scope.md R8. The parameters that have a value stand in
Machine/Params.lean. -/

namespace Sys2Proof

/-- The two values of the parameter `STOP_BEHAVIOUR` (R8, R275, D10). -/
inductive StopBehaviour where
  | refuse
  | nop2
  deriving DecidableEq, Repr

/-- One of the four fixed RGBA shades (R362): red, green, blue, alpha. -/
structure Rgba where
  red : Byte
  green : Byte
  blue : Byte
  alpha : Byte
  deriving DecidableEq, Repr, Inhabited

/-- FREE VALUE (log 4). The byte a read at this offset outside the cartridge image returns: R70, D39,
"a read that falls outside the image returns any value". -/
opaque Config.outsideCart : Nat → Byte

/-- FREE VALUE (log 3). The byte of `BOOT_ROM` at this offset where no content is given: R8, "content opaque". -/
opaque Config.bootByte : Nat → Byte

/-- FREE VALUE (log 13). The parameter `SHADE_RGBA` of R8 and R362: "four fixed RGBA shades", not given. -/
opaque Config.shadeRgba : BitVec 2 → Rgba

end Sys2Proof
end

