-- ==== Sys2Proof/Syntax.lean ====
section
/-! DEFINITION. The instructions: one constructor per row of opcode_table.json, in the table's order, with the
operands 30_encoding.md R113 to R119 give them. -/

namespace Sys2Proof

/-- The seven 8-bit registers an operand code names (R113; code 6 is the `(HL)` form, a row of its own). -/
inductive Reg8 where
  | b | c | d | e | h | l | a
  deriving DecidableEq, Repr

/-- The 16-bit operand `rr` (R114). -/
inductive Pair where
  | bc | de | hl | sp
  deriving DecidableEq, Repr

/-- The stack pair `qq` of `PUSH rr` and `POP rr` (R115; code 3 is the `AF` form, a row of its own). -/
inductive StackPair where
  | bc | de | hl
  deriving DecidableEq, Repr

/-- The condition code `cc` (R116). -/
inductive Cond where
  | nz | z | nc | c
  deriving DecidableEq, Repr

/-- The instructions. -/
inductive Instr where
  -- 8-bit loads (40_load8.md)
  /-- `LD r,r'`, R140. -/
  | ldRR (dst src : Reg8)
  /-- `LD r,n`, R141. -/
  | ldRN (dst : Reg8) (n : Byte)
  /-- `LD r,(HL)`, R142. -/
  | ldRHl (dst : Reg8)
  /-- `LD (HL),r`, R143. -/
  | ldHlR (src : Reg8)
  /-- `LD (HL),n`, R144. -/
  | ldHlN (n : Byte)
  /-- `LD A,(BC)`, R145. -/
  | ldABc
  /-- `LD A,(DE)`, R146. -/
  | ldADe
  /-- `LD (BC),A`, R147. -/
  | ldBcA
  /-- `LD (DE),A`, R148. -/
  | ldDeA
  /-- `LD A,(nn)`, R149. -/
  | ldANn (nn : Word)
  /-- `LD (nn),A`, R150. -/
  | ldNnA (nn : Word)
  /-- `LDH A,(C)`, R151. -/
  | ldhAC
  /-- `LDH (C),A`, R152. -/
  | ldhCA
  /-- `LDH A,(n)`, R153. -/
  | ldhAN (n : Byte)
  /-- `LDH (n),A`, R154. -/
  | ldhNA (n : Byte)
  /-- `LD A,(HL-)`, R155. -/
  | ldAHld
  /-- `LD (HL-),A`, R156. -/
  | ldHldA
  /-- `LD A,(HL+)`, R157. -/
  | ldAHli
  /-- `LD (HL+),A`, R158. -/
  | ldHliA
  -- 16-bit loads and stack (41_load16_stack.md)
  /-- `LD rr,nn`, R160. -/
  | ldRrNn (rr : Pair) (nn : Word)
  /-- `LD (nn),SP`, R161. -/
  | ldNnSp (nn : Word)
  /-- `LD SP,HL`, R162. -/
  | ldSpHl
  /-- `LD HL,SP+e`, R163. -/
  | ldHlSpE (e : Byte)
  /-- `PUSH rr`, R164. -/
  | pushRr (qq : StackPair)
  /-- `PUSH AF`, R165. -/
  | pushAf
  /-- `POP rr`, R166. -/
  | popRr (qq : StackPair)
  /-- `POP AF`, R167. -/
  | popAf
  -- 8-bit arithmetic and logic (42_alu8.md)
  /-- `ADD A,r`, R173. -/
  | addR (src : Reg8)
  /-- `ADD A,(HL)`, R174. -/
  | addHl
  /-- `ADD A,n`, R175. -/
  | addN (n : Byte)
  /-- `ADC A,r`, R176. -/
  | adcR (src : Reg8)
  /-- `ADC A,(HL)`, R177. -/
  | adcHl
  /-- `ADC A,n`, R178. -/
  | adcN (n : Byte)
  /-- `SUB r`, R179. -/
  | subR (src : Reg8)
  /-- `SUB (HL)`, R180. -/
  | subHl
  /-- `SUB n`, R181. -/
  | subN (n : Byte)
  /-- `SBC A,r`, R182. -/
  | sbcR (src : Reg8)
  /-- `SBC A,(HL)`, R183. -/
  | sbcHl
  /-- `SBC A,n`, R184. -/
  | sbcN (n : Byte)
  /-- `AND r`, R185. -/
  | andR (src : Reg8)
  /-- `AND (HL)`, R186. -/
  | andHl
  /-- `AND n`, R187. -/
  | andN (n : Byte)
  /-- `XOR r`, R188. -/
  | xorR (src : Reg8)
  /-- `XOR (HL)`, R189. -/
  | xorHl
  /-- `XOR n`, R190. -/
  | xorN (n : Byte)
  /-- `OR r`, R191. -/
  | orR (src : Reg8)
  /-- `OR (HL)`, R192. -/
  | orHl
  /-- `OR n`, R193. -/
  | orN (n : Byte)
  /-- `CP r`, R194. -/
  | cpR (src : Reg8)
  /-- `CP (HL)`, R195. -/
  | cpHl
  /-- `CP n`, R196. -/
  | cpN (n : Byte)
  /-- `INC r`, R197. -/
  | incR (dst : Reg8)
  /-- `INC (HL)`, R198. -/
  | incHl
  /-- `DEC r`, R199. -/
  | decR (dst : Reg8)
  /-- `DEC (HL)`, R200. -/
  | decHl
  /-- `DAA`, R201. -/
  | daa
  /-- `CPL`, R202. -/
  | cpl
  /-- `SCF`, R203. -/
  | scf
  /-- `CCF`, R204. -/
  | ccf
  -- 16-bit arithmetic (43_alu16.md)
  /-- `ADD HL,rr`, R210. -/
  | addHlRr (rr : Pair)
  /-- `INC rr`, R211. -/
  | incRr (rr : Pair)
  /-- `DEC rr`, R212. -/
  | decRr (rr : Pair)
  /-- `ADD SP,e`, R213. -/
  | addSpE (e : Byte)
  -- rotates, shifts, bits (44_rotate_shift_bit.md)
  /-- `RLCA`, R221. -/
  | rlca
  /-- `RLA`, R222. -/
  | rla
  /-- `RRCA`, R223. -/
  | rrca
  /-- `RRA`, R224. -/
  | rra
  /-- `RLC r`, R225. -/
  | rlcR (r : Reg8)
  /-- `RLC (HL)`, R226. -/
  | rlcHl
  /-- `RRC r`, R227. -/
  | rrcR (r : Reg8)
  /-- `RRC (HL)`, R228. -/
  | rrcHl
  /-- `RL r`, R229. -/
  | rlR (r : Reg8)
  /-- `RL (HL)`, R230. -/
  | rlHl
  /-- `RR r`, R231. -/
  | rrR (r : Reg8)
  /-- `RR (HL)`, R232. -/
  | rrHl
  /-- `SLA r`, R233. -/
  | slaR (r : Reg8)
  /-- `SLA (HL)`, R234. -/
  | slaHl
  /-- `SRA r`, R235. -/
  | sraR (r : Reg8)
  /-- `SRA (HL)`, R236. -/
  | sraHl
  /-- `SWAP r`, R237. -/
  | swapR (r : Reg8)
  /-- `SWAP (HL)`, R238. -/
  | swapHl
  /-- `SRL r`, R239. -/
  | srlR (r : Reg8)
  /-- `SRL (HL)`, R240. -/
  | srlHl
  /-- `BIT b,r`, R241. -/
  | bitBR (b : BitVec 3) (r : Reg8)
  /-- `BIT b,(HL)`, R242. -/
  | bitBHl (b : BitVec 3)
  /-- `RES b,r`, R243. -/
  | resBR (b : BitVec 3) (r : Reg8)
  /-- `RES b,(HL)`, R244. -/
  | resBHl (b : BitVec 3)
  /-- `SET b,r`, R245. -/
  | setBR (b : BitVec 3) (r : Reg8)
  /-- `SET b,(HL)`, R246. -/
  | setBHl (b : BitVec 3)
  -- control transfer (45_control_flow.md)
  /-- `JP nn`, R250. -/
  | jpNn (nn : Word)
  /-- `JP cc,nn`, R251. -/
  | jpCcNn (cc : Cond) (nn : Word)
  /-- `JP HL`, R252. -/
  | jpHl
  /-- `JR e`, R253. -/
  | jrE (e : Byte)
  /-- `JR cc,e`, R254. -/
  | jrCcE (cc : Cond) (e : Byte)
  /-- `CALL nn`, R255. -/
  | callNn (nn : Word)
  /-- `CALL cc,nn`, R256. -/
  | callCcNn (cc : Cond) (nn : Word)
  /-- `RET`, R257. -/
  | ret
  /-- `RET cc`, R258. -/
  | retCc (cc : Cond)
  /-- `RETI`, R259. -/
  | reti
  /-- `RST t`, R260. -/
  | rstT (t : BitVec 3)
  -- CPU control and undefined bytes (46_misc_control.md)
  /-- `NOP`, R271. -/
  | nop
  /-- `HALT`, R272. -/
  | halt
  /-- `EI`, R273. -/
  | ei
  /-- `DI`, R274. -/
  | di
  /-- `STOP`, R275. Byte 1 is ignored (R128) but kept, so that an encoding loses no bit. -/
  | stop (n : Byte)
  /-- `PREFIX CB`, R276. The prefix and its operand, the following byte; the decoder never answers it (log 8). -/
  | prefixCb (op2 : Byte)
  /-- `undefined byte 0xD3`, R277. -/
  | illegalD3
  /-- `undefined byte 0xDB`, R277. -/
  | illegalDB
  /-- `undefined byte 0xDD`, R277. -/
  | illegalDD
  /-- `undefined byte 0xE3`, R277. -/
  | illegalE3
  /-- `undefined byte 0xE4`, R277. -/
  | illegalE4
  /-- `undefined byte 0xEB`, R277. -/
  | illegalEB
  /-- `undefined byte 0xEC`, R277. -/
  | illegalEC
  /-- `undefined byte 0xED`, R277. -/
  | illegalED
  /-- `undefined byte 0xF4`, R277. -/
  | illegalF4
  /-- `undefined byte 0xFC`, R277. -/
  | illegalFC
  /-- `undefined byte 0xFD`, R277. -/
  | illegalFD
  deriving DecidableEq, Repr

end Sys2Proof
end

