-- ==== Sys2Proof/Machine/State.lean ====
section
/-! DEFINITION. The state of the machine as plain data, why a step may stop, and the state after reset
(10_state.md R20 to R56). What the cells of memory read as is Machine/Sparse.lean and Machine/Ops.lean. -/

namespace Sys2Proof.Machine

/-- The four flags `Z`, `N`, `HF`, `CY` (R22). -/
@[ext]
structure Flags where
  /-- zero -/
  z : Bool
  /-- subtract -/
  n : Bool
  /-- half-carry, the spec's `HF` -/
  h : Bool
  /-- carry, the spec's `CY` -/
  c : Bool
  deriving DecidableEq, Repr

/-- The diagnostic record of the one fault: "opcode value + program counter" (R27, R300). -/
structure FaultRecord where
  op : Byte
  pc : Word
  deriving DecidableEq, Repr

/-- Bytes by address: addresses strictly rising, no entry equal to what an unlisted address reads as (log 14). -/
abbrev Memory := List Host.Cell

/-- An immutable byte sequence (the cartridge, the boot ROM): its length, and those of its bytes that are not 0x00, by
offset, strictly rising (log 14). -/
structure RomImage where
  length : Nat
  bytes : List Host.Cell
  deriving DecidableEq, Repr

/-- A sprite record of `visible` (R33). -/
structure Sprite where
  y : Byte
  x : Byte
  tile : Byte
  flags : Byte
  oamIndex : Nat
  deriving DecidableEq, Repr

/-- A cell of the framebuffer (R33). -/
structure FbCell where
  shade : BitVec 2
  index : BitVec 2
  isSprite : Bool
  deriving DecidableEq, Repr

/-- Rows of the framebuffer by line: lines strictly rising, no entry equal to the reset row (log 14). -/
abbrev Framebuffer := List (Nat × List FbCell)

/-- The two masks of one `HandleInput` call, 0 = pressed (R32, R340). -/
structure HostInput where
  dpad : BitVec 4
  btn : BitVec 4
  deriving DecidableEq, Repr

/-- The whole state. Every field is the spec's but `inputs`, the model's own (log 10). -/
@[ext]
structure State where
  /-- the accumulator (R20) -/
  a : Byte
  b : Byte
  c : Byte
  d : Byte
  e : Byte
  h : Byte
  l : Byte
  /-- the four flags (R22) -/
  flags : Flags
  /-- R24 -/
  pc : Word
  /-- R25 -/
  sp : Word
  /-- the interrupt master enable (R26) -/
  ime : Bool
  /-- the fault state (R27) -/
  halted : Bool
  /-- R27 -/
  fault : Option FaultRecord
  /-- `halt_wait` (R28) -/
  haltWait : Bool
  /-- the ticks the last `CpuStep` cost (R29) -/
  cycles : Nat
  /-- R30 -/
  mem : Memory
  /-- the parameter `CART` (R8, R70; log 5) -/
  cart : Option RomImage
  /-- the parameter `BOOT_ROM` (R8, R63; log 5) -/
  bootRom : RomImage
  /-- R30, R74 -/
  romBank : BitVec 5
  /-- R30, R63 -/
  bootMapped : Bool
  /-- R31 -/
  div16 : Word
  /-- R31 -/
  tsub : Nat
  /-- R32 -/
  joyDpad : BitVec 4
  /-- R32 -/
  joyBtn : BitVec 4
  /-- what the host does at the coming frame boundaries, none = no call (R321, R340; log 10) -/
  inputs : List (Option HostInput)
  /-- R33 -/
  lineCycles : Nat
  /-- R33 -/
  searched : Bool
  /-- R33 -/
  drawn : Bool
  /-- R33 -/
  visible : List Sprite
  /-- R33 -/
  fb : Framebuffer
  /-- R33 -/
  frameDone : Nat
  /-- R34 -/
  frameCycles : Nat
  deriving DecidableEq, Repr

/-- Why a step could stop with a fault: never. The spec's one fault, `IllegalOpcode`, is a state the machine goes on
from (R300, R302), and "no operation raises an error" (R62, R72, R301); log 7. -/
inductive Fault where
  deriving DecidableEq, Repr

/-- Why a step could be refused. -/
inductive Refusal where
  /-- Raised by an arm of `exec` that has no meaning yet; no arm is in that state. Safe. -/
  | notModelled (mnemonic : String)
  /-- Raised by `STOP` where the parameter `STOP_BEHAVIOUR` is `refuse` (R275, D10); this model's value is `nop2`
  (log 6), so no step raises it. Safe. -/
  | stopRefused
  deriving DecidableEq, Repr

/-- What a meaning answers. -/
abbrev Result := Host.Outcome State Fault Refusal

/-- The state after reset with a given cartridge, boot ROM and RAM content (R400; R54, R55, R56). `initRam` lists the
bytes of `INIT_RAM` that are not 0x00. -/
def State.resetWith (cart : Option RomImage) (bootRom : RomImage) (initRam : Memory) : State where
  a := 0x01
  b := 0x00
  c := 0x13
  d := 0x00
  e := 0xD8
  h := 0x01
  l := 0x4D
  flags := { z := true, n := false, h := true, c := true }
  pc := 0x0100
  sp := 0xFFFE
  ime := false
  halted := false
  fault := none
  haltWait := false
  cycles := 0
  mem := initRam
  cart := cart
  bootRom := bootRom
  romBank := 1
  bootMapped := false
  div16 := 0xABCC
  tsub := 0
  joyDpad := 0xF
  joyBtn := 0xF
  inputs := []
  lineCycles := 0
  searched := false
  drawn := false
  visible := []
  fb := []
  frameDone := 0
  frameCycles := 0

/-- The state after reset: R54, R55, R56, with no cartridge (log 2), no known boot ROM byte (log 3) and RAM all 0x00
(log 1). -/
def State.reset : State := State.resetWith none { length := 0, bytes := [] } []

end Sys2Proof.Machine
end

