-- ==== Sys2Proof/Machine/Params.lean ====
section
/-! DEFINITION. The parameters of 00_scope.md R8 that have a value, the addresses of the memory-mapped registers
(10_state.md R36) and what every memory cell holds after reset (R55, R56). -/

namespace Sys2Proof.Machine

/-- `FRAME_CYCLES`. -/
def frameTicks : Nat := 70224

/-- `LINE_CYCLES`. -/
def lineTicks : Nat := 456

/-- `OAM_END`. -/
def oamEnd : Nat := 80

/-- `XFER_END`. -/
def xferEnd : Nat := 252

/-- `LCD_W`. -/
def lcdWidth : Nat := 160

/-- `LCD_H`. -/
def lcdHeight : Nat := 144

/-- The last line before the wrap to 0: `LCD_H + VBLANK_LINES - 1`. -/
def lastLine : Nat := 153

/-- `MAX_SPRITES_LINE`. -/
def maxSprites : Nat := 10

/-- `HALTED_CYCLES` (D8). -/
def haltedCycles : Nat := 4

/-- `TIMER_THR[sel]` (R8, R41). -/
def timerThreshold (sel : Nat) : Nat :=
  match sel with
  | 0 => 1024
  | 1 => 16
  | 2 => 64
  | _ => 256

/-- `BANK_ALIAS_SET` (R8, R74). -/
def bankAliasSet : List Nat := [0x00, 0x14, 0x28, 0x3C]

/-- `STOP_BEHAVIOUR` (R8, R275, D10): DESIGN CHOICE `nop2`, log 6. -/
def stopBehaviour : StopBehaviour := .nop2

/-! Register addresses (R36). -/

abbrev addrJOYP : Nat := 0xFF00
abbrev addrDIV : Nat := 0xFF04
abbrev addrTIMA : Nat := 0xFF05
abbrev addrTMA : Nat := 0xFF06
abbrev addrTAC : Nat := 0xFF07
abbrev addrIF : Nat := 0xFF0F
abbrev addrLCDC : Nat := 0xFF40
abbrev addrSTAT : Nat := 0xFF41
abbrev addrSCY : Nat := 0xFF42
abbrev addrSCX : Nat := 0xFF43
abbrev addrLY : Nat := 0xFF44
abbrev addrLYC : Nat := 0xFF45
abbrev addrDMA : Nat := 0xFF46
abbrev addrBGP : Nat := 0xFF47
abbrev addrOBP0 : Nat := 0xFF48
abbrev addrOBP1 : Nat := 0xFF49
abbrev addrWY : Nat := 0xFF4A
abbrev addrWX : Nat := 0xFF4B
abbrev addrBOOT : Nat := 0xFF50
abbrev addrIE : Nat := 0xFFFF

/-- The registers whose value after reset is not 0x00, by address (R55). -/
def resetTable : List (Nat × Byte) :=
  [(0xFF00, 0xCF), (0xFF02, 0x7E), (0xFF07, 0xF8), (0xFF0F, 0xE1), (0xFF10, 0x80), (0xFF11, 0xBF), (0xFF12, 0xF3),
    (0xFF13, 0xFF), (0xFF14, 0xBF), (0xFF16, 0x3F), (0xFF18, 0xFF), (0xFF19, 0xBF), (0xFF1A, 0x7F), (0xFF1B, 0xFF),
    (0xFF1C, 0x9F), (0xFF1D, 0xFF), (0xFF1E, 0xBF)] ++
  [(0xFF20, 0xFF), (0xFF23, 0xBF), (0xFF24, 0x77), (0xFF25, 0xF3), (0xFF26, 0xF1), (0xFF40, 0x91), (0xFF41, 0x85),
    (0xFF46, 0xFF), (0xFF47, 0xFC), (0xFF48, 0xFF), (0xFF49, 0xFF), (0xFF50, 0x01)]

/-- The cell (0, 0, 0) that every framebuffer cell holds after reset (R56). -/
def blankCell : FbCell := { shade := 0, index := 0, isSprite := false }

/-- A row of 160 such cells. -/
def blankRow : List FbCell := List.replicate lcdWidth blankCell

end Sys2Proof.Machine
end

