-- ==== Sys2Proof/Machine/Sparse.lean ====
section
/-! DEFINITION. Data by number, held as a list in one canonical form: keys strictly rising, no entry equal to what an
unlisted key reads as, so that equal contents are equal lists (log 14). Memory, the framebuffer and the read-only images
are held so. -/

namespace Sys2Proof.Machine

section
variable {α : Type} [DecidableEq α]

/-- The value at key `k`; `dflt k` where `k` is not listed. -/
def sparseGet (dflt : Nat → α) : List (Nat × α) → Nat → α
  | [], k => dflt k
  | (j, x) :: m, k => if j = k then x else sparseGet dflt m k

/-- The entry for `(k, v)` in front of `m`: none where `v` is what an unlisted `k` reads as. -/
def sparseCons (dflt : Nat → α) (k : Nat) (v : α) (m : List (Nat × α)) : List (Nat × α) :=
  if v = dflt k then m else (k, v) :: m

/-- The content with key `k` set to `v`, in canonical form again. -/
def sparseSet (dflt : Nat → α) : List (Nat × α) → Nat → α → List (Nat × α)
  | [], k, v => sparseCons dflt k v []
  | (j, x) :: m, k, v =>
    if j < k then (j, x) :: sparseSet dflt m k v
    else if j = k then sparseCons dflt k v m
    else sparseCons dflt k v ((j, x) :: m)

/-- The canonical form over keys below `bound` and from `lo` on. -/
def sparseWf (dflt : Nat → α) (bound : Nat) : Nat → List (Nat × α) → Bool
  | _, [] => true
  | lo, (k, v) :: m =>
    decide (lo ≤ k) && decide (k < bound) && decide (v ≠ dflt k) && sparseWf dflt bound (k + 1) m

end

/-- What the cell `mem[n]` holds after reset, which is what an unlisted address reads as: the registers as R55 lists
them; 0x00 for every RAM byte (`INIT_RAM`; DESIGN CHOICE, log 1). -/
def resetByte (n : Nat) : Byte := sparseGet (fun _ => 0x00) resetTable n

/-- `mem[n]`. -/
def Memory.read (m : Memory) (n : Nat) : Byte := sparseGet resetByte m n

/-- `mem[n] <- v`. -/
def Memory.write (m : Memory) (n : Nat) (v : Byte) : Memory := sparseSet resetByte m n v

/-- The canonical form of memory: addresses strictly rising and below 2^16, no entry equal to `resetByte`. -/
def Memory.wf (m : Memory) : Bool := sparseWf resetByte 0x10000 0 m

/-- The byte at an offset of an image; outside it, the free value. -/
def RomImage.read (free : Nat → Byte) (im : RomImage) (off : Nat) : Byte :=
  if off < im.length then sparseGet (fun _ => 0x00) im.bytes off else free off

/-- The image with one byte replaced, made longer if it has to be. -/
def RomImage.place (im : RomImage) (off : Nat) (v : Byte) : RomImage :=
  { length := max im.length (off + 1), bytes := sparseSet (fun _ => 0x00) im.bytes off v }

/-- The canonical form of an image. -/
def RomImage.wf (im : RomImage) : Bool := sparseWf (fun _ => (0x00 : Byte)) im.length 0 im.bytes

/-- Row `y` of the framebuffer. -/
def Framebuffer.row (fb : Framebuffer) (y : Nat) : List FbCell := sparseGet (fun _ => blankRow) fb y

/-- The framebuffer with row `y` replaced. -/
def Framebuffer.setRow (fb : Framebuffer) (y : Nat) (r : List FbCell) : Framebuffer :=
  sparseSet (fun _ => blankRow) fb y r

/-- The canonical form of the framebuffer: lines strictly rising and below 144, no entry equal to the reset row, every
row of 160 cells. -/
def Framebuffer.wf (fb : Framebuffer) : Bool :=
  sparseWf (fun _ => blankRow) lcdHeight 0 fb && fb.all fun p => decide (p.2.length = lcdWidth)

/-- `fb[y][x]`. -/
def Framebuffer.cell (fb : Framebuffer) (y x : Nat) : FbCell := (fb.row y).getD x blankCell

end Sys2Proof.Machine
end

