-- ==== Sys2Proof/Machine/Ops.lean ====
section
/-! DEFINITION. The named operations over registers and memory: register access, the memory controller
(20_memory.md R60 to R93), the stack, the end of an instruction, the one fault, interrupt entry and return. -/

namespace Sys2Proof.Machine

/-! ### Registers -/

/-- `x[i]` (R11, R113). -/
def getReg (s : State) : Reg8 → Byte
  | .b => s.b
  | .c => s.c
  | .d => s.d
  | .e => s.e
  | .h => s.h
  | .l => s.l
  | .a => s.a

/-- `x[i] <- v`. -/
def setReg (s : State) (r : Reg8) (v : Byte) : State :=
  match r with
  | .b => { s with b := v }
  | .c => { s with c := v }
  | .d => { s with d := v }
  | .e => { s with e := v }
  | .h => { s with h := v }
  | .l => { s with l := v }
  | .a => { s with a := v }

/-- The view `BC` (R21). -/
def regBC (s : State) : Word := mkWord s.b s.c

/-- The view `DE` (R21). -/
def regDE (s : State) : Word := mkWord s.d s.e

/-- The view `HL` (R21). -/
def regHL (s : State) : Word := mkWord s.h s.l

/-- `HL <- v`: "writing a view writes both halves" (R11). -/
def setHL (s : State) (v : Word) : State := { s with h := hiByte v, l := loByte v }

/-- `rr[i]` (R11, R114). -/
def getPair (s : State) : Pair → Word
  | .bc => regBC s
  | .de => regDE s
  | .hl => regHL s
  | .sp => s.sp

/-- `rr[i] <- v`. -/
def setPair (s : State) (p : Pair) (v : Word) : State :=
  match p with
  | .bc => { s with b := hiByte v, c := loByte v }
  | .de => { s with d := hiByte v, e := loByte v }
  | .hl => { s with h := hiByte v, l := loByte v }
  | .sp => { s with sp := v }

/-- `F = Pack() = {Z, N, HF, CY, 0, 0, 0, 0}` (R23). -/
def packFlags (f : Flags) : Byte :=
  BitVec.ofBool f.z ++ BitVec.ofBool f.n ++ BitVec.ofBool f.h ++ BitVec.ofBool f.c ++ 0#4

/-- `Unpack(b)`: bits 7 to 4; bits 3:0 are discarded (R23). -/
def unpackFlags (b : Byte) : Flags := { z := bit b 7, n := bit b 6, h := bit b 5, c := bit b 4 }

/-! ### Memory cells and the privileged paths -/

/-- The cell `mem[n]`. -/
def peek (s : State) (n : Nat) : Byte := Memory.read s.mem n

/-- `mem[n] <- v`. -/
def poke (s : State) (n : Nat) (v : Byte) : State := { s with mem := Memory.write s.mem n v }

/-- `RegRead` (R88). -/
def regRead (s : State) (n : Nat) : Byte := if n = addrDIV then hiByte s.div16 else peek s n

/-- `RegWrite` (R89): the cell and nothing else. -/
def regWrite (s : State) (n : Nat) (v : Byte) : State := poke s n v

/-! ### The cartridge -/

/-- `CART[off]`; outside the image any value (R70, log 4). -/
def cartByte (im : RomImage) (off : Nat) : Byte := RomImage.read Config.outsideCart im off

/-- `ROM_BANKS = 2 << CART[0x0148]` (R70). -/
def romBanks (im : RomImage) : Nat := 2 <<< (cartByte im 0x148).toNat

/-- The RAM-size code `CART[0x0149]`, "read and has no effect" (R70). -/
def ramSizeCode (im : RomImage) : Byte := cartByte im 0x149

/-- The offset in the image that address `n` below 0x8000 shows (R64, R65, R71). -/
def romOffset (im : RomImage) (bank : BitVec 5) (n : Nat) : Nat :=
  if n < 0x4000 then n
  else if romBanks im = 2 then n
  else bank.toNat % romBanks im * 0x4000 + (n - 0x4000)

/-- The alias function of `BANK_ALIAS_SET`: "remapped to the next index up" (R74). -/
def aliasBank (k : Nat) : Nat := if k ∈ bankAliasSet then k + 1 else k

/-- A write to 0x2000 to 0x3FFF (R74). -/
def bankSelect (s : State) (v : Byte) : State :=
  match s.cart with
  | none => s
  | some im => if romBanks im = 2 then s else { s with romBank := BitVec.ofNat 5 (aliasBank (v.toNat % 32)) }

/-! ### The CPU read path -/

/-- The value of JOYP: bits 7:6 read 1, bits 5:4 the stored selection, bits 3:0 computed (R37, R68). -/
def joypValue (s : State) : Byte :=
  let sel := peek s addrJOYP
  let low := (if bit sel 4 then 0xF#4 else s.joyDpad) &&& (if bit sel 5 then 0xF#4 else s.joyBtn)
  0b11#2 ++ BitVec.extractLsb' 4 2 sel ++ low

/-- A read of 0x0000 to 0x7FFF that the boot overlay does not answer (R64, R65). -/
def romRead (s : State) (n : Nat) : Byte :=
  match s.cart with
  | none => 0xFF
  | some im => cartByte im (romOffset im s.romBank n)

/-- `MemRead(a, 1)`: the first case that applies answers (R62 to R69). -/
def memRead (s : State) (a : Word) : Byte :=
  let n := a.toNat
  if s.bootMapped = true ∧ n ≤ 0x00FF then RomImage.read Config.bootByte s.bootRom n
  else if n < 0x8000 then romRead s n
  else if 0xA000 ≤ n ∧ n ≤ 0xBFFF ∧ s.cart = none then 0xFF
  else if 0xE000 ≤ n ∧ n ≤ 0xFDFF then peek s (n - 0x2000)
  else if n = addrJOYP then joypValue s
  else if n = addrDIV then hiByte s.div16
  else peek s n

/-- `MemRead(a, 2)`: low byte first (R11, R90). -/
def memRead16 (s : State) (a : Word) : Word := mkWord (memRead s (a + 1)) (memRead s a)

/-! ### The CPU write path -/

/-- The first `k` byte copies of the OAM DMA from `src`, in ascending order (R81). -/
def dmaCopy (src : Word) : Nat → State → State
  | 0, s => s
  | k + 1, s =>
    let t := dmaCopy src k s
    poke t (0xFE00 + k) (memRead t (src + BitVec.ofNat 16 k))

/-- A write to 0xFF46: the byte, then 160 bytes from `{v, 0x00}` into OAM (R81). -/
def oamDma (s : State) (v : Byte) : State := dmaCopy (mkWord v 0x00) 160 (poke s addrDMA v)

/-- `MemWrite(a, 1, v)`: the first case that applies is the only one performed (R72 to R84). -/
def memWrite (s : State) (a : Word) (v : Byte) : State :=
  let n := a.toNat
  if n = addrBOOT ∧ v = 0x01 then { poke s addrBOOT 0x01 with bootMapped := false }
  else if 0x2000 ≤ n ∧ n ≤ 0x3FFF then bankSelect s v
  else if n < 0x8000 then s
  else if 0xE000 ≤ n ∧ n ≤ 0xFDFF then poke s (n - 0x2000) v
  else if n = addrDIV then { s with div16 := 0 }
  else if n = addrDMA then oamDma s v
  else if n = addrJOYP then
    let old := peek s addrJOYP
    poke s addrJOYP (BitVec.extractLsb' 6 2 old ++ BitVec.extractLsb' 4 2 v ++ BitVec.extractLsb' 0 4 old)
  else if 0xA000 ≤ n ∧ n ≤ 0xBFFF ∧ s.cart = none then s
  else if n = addrSTAT then
    poke s addrSTAT (BitVec.extractLsb' 3 5 v ++ BitVec.extractLsb' 0 3 (peek s addrSTAT))
  else poke s n v

/-! ### The stack -/

/-- `Push16(v)`: high byte, then low byte, then SP (R25). -/
def push16 (s : State) (v : Word) : State :=
  let s1 := memWrite s (s.sp - 1) (hiByte v)
  let s2 := memWrite s1 (s.sp - 2) (loByte v)
  { s2 with sp := s.sp - 2 }

/-- The word `Pop16()` gives: the low byte at SP, the high byte at SP + 1 (R25). -/
def popWord (s : State) : Word := mkWord (memRead s (s.sp + 1)) (memRead s s.sp)

/-- What `Pop16()` does to SP (R25). -/
def popSp (s : State) : State := { s with sp := s.sp + 2 }

/-! ### The end of an instruction -/

/-- `PC <- PC + length mod 2^16; cycles <- n` (R11, R24, R270). -/
def finish (len ticks : Nat) (s : State) : State :=
  { s with pc := s.pc + BitVec.ofNat 16 len, cycles := ticks }

/-- `pc <- target; cycles <- n` (R11). -/
def finishAt (target : Word) (ticks : Nat) (s : State) : State := { s with pc := target, cycles := ticks }

/-! ### The fault, interrupt entry and return -/

/-- `raise IllegalOpcode(op, PC)`, the one synchronous exception: its whole effect (R300). -/
def raiseIllegalOpcode (op : Byte) (s : State) : State :=
  { s with halted := true, fault := some { op := op, pc := s.pc }, cycles := haltedCycles }

/-- Entry into the service routine of interrupt `i`: its IF bit, IME and `halt_wait` cleared, PC pushed through the CPU
write path, PC at `0x0040 + 8 * i` (R310, R313). -/
def takeInterrupt (i : Nat) (s : State) : State :=
  let s1 := regWrite s addrIF (clearBit (regRead s addrIF) i)
  let s2 := { s1 with ime := false, haltWait := false }
  let s3 := push16 s2 s2.pc
  { s3 with pc := BitVec.ofNat 16 (0x0040 + 8 * i) }

/-- Return from a service routine: PC popped, IME set (R259, R314). -/
def returnFromInterrupt (s : State) : State := { popSp s with pc := popWord s, ime := true }

end Sys2Proof.Machine
end

