-- ==== Sys2Proof/Machine/Operands.lean ====
section
/-! DEFINITION. The operand forms: conditions, stack pairs, the byte at HL, high-page addresses, displacements
(30_encoding.md R113 to R119). -/

namespace Sys2Proof.Machine

/-- `cond(cc)` (R116). -/
def condHolds (s : State) : Cond → Bool
  | .nz => !s.flags.z
  | .z => s.flags.z
  | .nc => !s.flags.c
  | .c => s.flags.c

/-- `pair[qq]` (R115). -/
def getStackPair (s : State) : StackPair → Word
  | .bc => regBC s
  | .de => regDE s
  | .hl => regHL s

/-- `pair[qq] <- v` (R115). -/
def setStackPair (s : State) (q : StackPair) (v : Word) : State :=
  match q with
  | .bc => { s with b := hiByte v, c := loByte v }
  | .de => { s with d := hiByte v, e := loByte v }
  | .hl => { s with h := hiByte v, l := loByte v }

/-- The operand `(HL)`: `MemRead(HL, 1)`. -/
def readHL (s : State) : Byte := memRead s (regHL s)

/-- `MemWrite(HL, 1, v)`. -/
def writeHL (s : State) (v : Byte) : State := memWrite s (regHL s) v

/-- The high-page address `0xFF00 + zext_16(n)` (R119). -/
def highPage (n : Byte) : Word := 0xFF00#16 + zext16 n

/-- The target of a `JR` at PC: `PC + 2 + sext_16(e)` (R119, R253). -/
def relTarget (s : State) (e : Byte) : Word := s.pc + 2 + sext16 e

/-- `SP + sext_16(e)` (R119, R163, R213). -/
def spPlus (s : State) (e : Byte) : Word := s.sp + sext16 e

/-- The restart target `zext_16({t, 000})` (R119, R260). -/
def rstTarget (t : BitVec 3) : Word := BitVec.ofNat 16 (8 * t.toNat)

end Sys2Proof.Machine
end

