-- ==== Sys2Proof/Machine/Flags.lean ====
section
/-! DEFINITION. Every result and flag computation: exact integers first, narrowed at the end (42_alu8.md R170 to R172, R197 to
R204; 43_alu16.md R210, R213; 44_rotate_shift_bit.md R220). -/

namespace Sys2Proof.Machine

/-- An 8-bit result with the four flags. -/
structure AluOut where
  res : Byte
  flags : Flags
  deriving DecidableEq, Repr

/-- `Add8(a, b, c)` (R170). -/
def add8 (a b : Byte) (c : Bool) : AluOut :=
  let s := a.toNat + b.toNat + c.toNat
  let r := BitVec.ofNat 8 s
  { res := r
    flags := { z := r = 0, n := false, h := loNibble a + loNibble b + c.toNat > 0xF, c := s > 0xFF } }

/-- `Sub8(a, b, c)` (R171). -/
def sub8 (a b : Byte) (c : Bool) : AluOut :=
  let r := BitVec.ofInt 8 ((a.toNat : Int) - b.toNat - c.toNat)
  { res := r
    flags := { z := r = 0, n := true, h := loNibble a < loNibble b + c.toNat, c := a.toNat < b.toNat + c.toNat } }

/-- `a & b` (R172). -/
def and8 (a b : Byte) : AluOut :=
  let r := a &&& b
  { res := r, flags := { z := r = 0, n := false, h := true, c := false } }

/-- `a ^ b` (R172). -/
def xor8 (a b : Byte) : AluOut :=
  let r := a ^^^ b
  { res := r, flags := { z := r = 0, n := false, h := false, c := false } }

/-- `a | b` (R172). -/
def or8 (a b : Byte) : AluOut :=
  let r := a ||| b
  { res := r, flags := { z := r = 0, n := false, h := false, c := false } }

/-- `INC`: CY is kept (R197, R198). -/
def inc8 (v : Byte) (f : Flags) : AluOut :=
  let r := BitVec.ofNat 8 (v.toNat + 1)
  { res := r, flags := { z := r = 0, n := false, h := loNibble v = 0xF, c := f.c } }

/-- `DEC`: CY is kept (R199, R200). -/
def dec8 (v : Byte) (f : Flags) : AluOut :=
  let r := BitVec.ofInt 8 ((v.toNat : Int) - 1)
  { res := r, flags := { z := r = 0, n := true, h := loNibble v = 0x0, c := f.c } }

/-- The adjustment byte of `DAA` (R201): the tests of the `N = 0` path read A before any adjustment. -/
def daaAdjust (a : Byte) (f : Flags) : Nat :=
  if f.n = false then
    (if f.h = true ∨ loNibble a > 9 then 0x06 else 0) ||| (if f.c = true ∨ a.toNat > 0x99 then 0x60 else 0)
  else (if f.h = true then 0x06 else 0) ||| (if f.c = true then 0x60 else 0)

/-- `DAA` (R201). -/
def daa8 (a : Byte) (f : Flags) : AluOut :=
  let r :=
    if f.n = false then BitVec.ofNat 8 (a.toNat + daaAdjust a f)
    else BitVec.ofInt 8 ((a.toNat : Int) - daaAdjust a f)
  { res := r
    flags :=
      { z := r = 0
        n := f.n
        h := false
        c := if f.n = false ∧ a.toNat > 0x99 then true else f.c } }

/-- `ADD HL,rr` (R210): Z is kept. -/
def add16 (x v : Word) (f : Flags) : Word × Flags :=
  let s := x.toNat + v.toNat
  (BitVec.ofNat 16 s,
    { z := f.z, n := false, h := x.toNat % 0x1000 + v.toNat % 0x1000 > 0xFFF, c := s > 0xFFFF })

/-- The flags of `ADD SP,e` and `LD HL,SP+e`: from the low byte of SP and the raw byte `e` (R163, R213). -/
def spFlags (sp : Word) (e : Byte) : Flags :=
  { z := false
    n := false
    h := loNibble (loByte sp) + loNibble e > 0xF
    c := (loByte sp).toNat + e.toNat > 0xFF }

/-- The rows of R220. -/
inductive RotOp where
  | rlc | rrc | rl | rr | sla | sra | swap | srl
  deriving DecidableEq, Repr

/-- `Rot(op, v, c)`: the result and the evicted bit (R220). -/
def rot (op : RotOp) (v : Byte) (c : Bool) : Byte × Bool :=
  match op with
  | .rlc => (BitVec.extractLsb' 0 7 v ++ BitVec.extractLsb' 7 1 v, bit v 7)
  | .rrc => (BitVec.extractLsb' 0 1 v ++ BitVec.extractLsb' 1 7 v, bit v 0)
  | .rl => (BitVec.extractLsb' 0 7 v ++ BitVec.ofBool c, bit v 7)
  | .rr => (BitVec.ofBool c ++ BitVec.extractLsb' 1 7 v, bit v 0)
  | .sla => (BitVec.extractLsb' 0 7 v ++ 0#1, bit v 7)
  | .sra => (BitVec.extractLsb' 7 1 v ++ BitVec.extractLsb' 1 7 v, bit v 0)
  | .swap => (BitVec.extractLsb' 0 4 v ++ BitVec.extractLsb' 4 4 v, false)
  | .srl => (0#1 ++ BitVec.extractLsb' 1 7 v, bit v 0)

/-- A prefixed rotate or shift: Z from the result (R225 to R240). -/
def rotOut (op : RotOp) (v : Byte) (c : Bool) : AluOut :=
  let p := rot op v c
  { res := p.1, flags := { z := p.1 = 0, n := false, h := false, c := p.2 } }

/-- An accumulator rotate: Z is cleared (R221 to R224). -/
def rotAOut (op : RotOp) (v : Byte) (c : Bool) : AluOut :=
  let p := rot op v c
  { res := p.1, flags := { z := false, n := false, h := false, c := p.2 } }

/-- The flags of `BIT`: CY is kept (R241, R242). -/
def bitFlags (v : Byte) (b : BitVec 3) (f : Flags) : Flags :=
  { z := !bit v b.toNat, n := false, h := true, c := f.c }

/-- A with its flags written from an ALU result. -/
def setA (s : State) (o : AluOut) : State := { s with a := o.res, flags := o.flags }

/-- A register and the flags written from an ALU result. -/
def setRegFlags (s : State) (r : Reg8) (o : AluOut) : State := { setReg s r o.res with flags := o.flags }

/-- The byte at HL and the flags written from an ALU result: a read, then a write with nothing between (R98). -/
def setHLFlags (s : State) (o : AluOut) : State := { writeHL s o.res with flags := o.flags }

end Sys2Proof.Machine
end

