-- ==== Sys2Proof/Machine/Alu16.lean ====
section
/-! DEFINITION. 16-bit arithmetic (43_alu16.md). -/

namespace Sys2Proof.Machine

/-- `ADD HL,rr` (R210). -/
def execAddHlRr (rr : Pair) (s : State) : Result :=
  .next (finish 1 8 { setHL s (add16 (regHL s) (getPair s rr) s.flags).1 with flags := (add16 (regHL s) (getPair s rr) s.flags).2 })

/-- `INC rr` (R211). -/
def execIncRr (rr : Pair) (s : State) : Result := .next (finish 1 8 (setPair s rr (getPair s rr + 1)))

/-- `DEC rr` (R212). -/
def execDecRr (rr : Pair) (s : State) : Result := .next (finish 1 8 (setPair s rr (getPair s rr - 1)))

/-- `ADD SP,e` (R213). -/
def execAddSpE (e : Byte) (s : State) : Result :=
  .next (finish 2 16 { s with sp := spPlus s e, flags := spFlags s.sp e })

end Sys2Proof.Machine
end

