-- ==== Sys2Proof/Machine/Alu8.lean ====
section
/-! DEFINITION. 8-bit arithmetic and logic (42_alu8.md). -/

namespace Sys2Proof.Machine

/-- `ADD A,r` (R173). -/
def execAddR (src : Reg8) (s : State) : Result := .next (finish 1 4 (setA s (add8 s.a (getReg s src) false)))

/-- `ADD A,(HL)` (R174). -/
def execAddHl (s : State) : Result := .next (finish 1 8 (setA s (add8 s.a (readHL s) false)))

/-- `ADD A,n` (R175). -/
def execAddN (n : Byte) (s : State) : Result := .next (finish 2 8 (setA s (add8 s.a n false)))

/-- `ADC A,r` (R176). -/
def execAdcR (src : Reg8) (s : State) : Result := .next (finish 1 4 (setA s (add8 s.a (getReg s src) s.flags.c)))

/-- `ADC A,(HL)` (R177). -/
def execAdcHl (s : State) : Result := .next (finish 1 8 (setA s (add8 s.a (readHL s) s.flags.c)))

/-- `ADC A,n` (R178). -/
def execAdcN (n : Byte) (s : State) : Result := .next (finish 2 8 (setA s (add8 s.a n s.flags.c)))

/-- `SUB r` (R179). -/
def execSubR (src : Reg8) (s : State) : Result := .next (finish 1 4 (setA s (sub8 s.a (getReg s src) false)))

/-- `SUB (HL)` (R180). -/
def execSubHl (s : State) : Result := .next (finish 1 8 (setA s (sub8 s.a (readHL s) false)))

/-- `SUB n` (R181). -/
def execSubN (n : Byte) (s : State) : Result := .next (finish 2 8 (setA s (sub8 s.a n false)))

/-- `SBC A,r` (R182). -/
def execSbcR (src : Reg8) (s : State) : Result := .next (finish 1 4 (setA s (sub8 s.a (getReg s src) s.flags.c)))

/-- `SBC A,(HL)` (R183). -/
def execSbcHl (s : State) : Result := .next (finish 1 8 (setA s (sub8 s.a (readHL s) s.flags.c)))

/-- `SBC A,n` (R184). -/
def execSbcN (n : Byte) (s : State) : Result := .next (finish 2 8 (setA s (sub8 s.a n s.flags.c)))

/-- `AND r` (R185). -/
def execAndR (src : Reg8) (s : State) : Result := .next (finish 1 4 (setA s (and8 s.a (getReg s src))))

/-- `AND (HL)` (R186). -/
def execAndHl (s : State) : Result := .next (finish 1 8 (setA s (and8 s.a (readHL s))))

/-- `AND n` (R187). -/
def execAndN (n : Byte) (s : State) : Result := .next (finish 2 8 (setA s (and8 s.a n)))

/-- `XOR r` (R188). -/
def execXorR (src : Reg8) (s : State) : Result := .next (finish 1 4 (setA s (xor8 s.a (getReg s src))))

/-- `XOR (HL)` (R189). -/
def execXorHl (s : State) : Result := .next (finish 1 8 (setA s (xor8 s.a (readHL s))))

/-- `XOR n` (R190). -/
def execXorN (n : Byte) (s : State) : Result := .next (finish 2 8 (setA s (xor8 s.a n)))

/-- `OR r` (R191). -/
def execOrR (src : Reg8) (s : State) : Result := .next (finish 1 4 (setA s (or8 s.a (getReg s src))))

/-- `OR (HL)` (R192). -/
def execOrHl (s : State) : Result := .next (finish 1 8 (setA s (or8 s.a (readHL s))))

/-- `OR n` (R193). -/
def execOrN (n : Byte) (s : State) : Result := .next (finish 2 8 (setA s (or8 s.a n)))

/-- `CP r` (R194). A is not written. -/
def execCpR (src : Reg8) (s : State) : Result :=
  .next (finish 1 4 { s with flags := (sub8 s.a (getReg s src) false).flags })

/-- `CP (HL)` (R195). A is not written. -/
def execCpHl (s : State) : Result := .next (finish 1 8 { s with flags := (sub8 s.a (readHL s) false).flags })

/-- `CP n` (R196). A is not written. -/
def execCpN (n : Byte) (s : State) : Result := .next (finish 2 8 { s with flags := (sub8 s.a n false).flags })

/-- `INC r` (R197). -/
def execIncR (dst : Reg8) (s : State) : Result := .next (finish 1 4 (setRegFlags s dst (inc8 (getReg s dst) s.flags)))

/-- `INC (HL)` (R198). -/
def execIncHl (s : State) : Result := .next (finish 1 12 (setHLFlags s (inc8 (readHL s) s.flags)))

/-- `DEC r` (R199). -/
def execDecR (dst : Reg8) (s : State) : Result := .next (finish 1 4 (setRegFlags s dst (dec8 (getReg s dst) s.flags)))

/-- `DEC (HL)` (R200). -/
def execDecHl (s : State) : Result := .next (finish 1 12 (setHLFlags s (dec8 (readHL s) s.flags)))

/-- `DAA` (R201). -/
def execDaa (s : State) : Result := .next (finish 1 4 (setA s (daa8 s.a s.flags)))

/-- `CPL` (R202). -/
def execCpl (s : State) : Result :=
  .next (finish 1 4 { s with a := ~~~s.a, flags := { s.flags with n := true, h := true } })

/-- `SCF` (R203). -/
def execScf (s : State) : Result :=
  .next (finish 1 4 { s with flags := { s.flags with n := false, h := false, c := true } })

/-- `CCF` (R204). -/
def execCcf (s : State) : Result :=
  .next (finish 1 4 { s with flags := { s.flags with n := false, h := false, c := !s.flags.c } })

end Sys2Proof.Machine
end

