-- ==== Sys2Proof/Machine/Flow.lean ====
section
/-! DEFINITION. Control transfer (45_control_flow.md). -/

namespace Sys2Proof.Machine

/-- `JP nn` (R250). -/
def execJpNn (nn : Word) (s : State) : Result := .next (finishAt nn 16 s)

/-- `JP cc,nn` (R251). -/
def execJpCcNn (cc : Cond) (nn : Word) (s : State) : Result :=
  .next (if condHolds s cc then finishAt nn 16 s else finish 3 12 s)

/-- `JP HL` (R252): the target is HL itself. -/
def execJpHl (s : State) : Result := .next (finishAt (regHL s) 4 s)

/-- `JR e` (R253). -/
def execJrE (e : Byte) (s : State) : Result := .next (finishAt (relTarget s e) 12 s)

/-- `JR cc,e` (R254). -/
def execJrCcE (cc : Cond) (e : Byte) (s : State) : Result :=
  .next (if condHolds s cc then finishAt (relTarget s e) 12 s else finish 2 8 s)

/-- `CALL nn` (R255): the target is read before the pushes. -/
def execCallNn (nn : Word) (s : State) : Result := .next (finishAt nn 24 (push16 s (s.pc + 3)))

/-- `CALL cc,nn` (R256). -/
def execCallCcNn (cc : Cond) (nn : Word) (s : State) : Result :=
  .next (if condHolds s cc then finishAt nn 24 (push16 s (s.pc + 3)) else finish 3 12 s)

/-- `RET` (R257). -/
def execRet (s : State) : Result := .next (finishAt (popWord s) 16 (popSp s))

/-- `RET cc` (R258). -/
def execRetCc (cc : Cond) (s : State) : Result :=
  .next (if condHolds s cc then finishAt (popWord s) 20 (popSp s) else finish 1 8 s)

/-- `RETI` (R259): IME is 1 when the instruction ends. -/
def execReti (s : State) : Result := .next { returnFromInterrupt s with cycles := 16 }

/-- `RST t` (R260). -/
def execRstT (t : BitVec 3) (s : State) : Result := .next (finishAt (rstTarget t) 16 (push16 s (s.pc + 1)))

end Sys2Proof.Machine
end

