-- ==== Sys2Proof/Machine/Load16.lean ====
section
/-! DEFINITION. The 16-bit loads and the stack (41_load16_stack.md). -/

namespace Sys2Proof.Machine

/-- `LD rr,nn` (R160). -/
def execLdRrNn (rr : Pair) (nn : Word) (s : State) : Result := .next (finish 3 12 (setPair s rr nn))

/-- `LD (nn),SP` (R161): low byte first, each byte routed on its own. -/
def execLdNnSp (nn : Word) (s : State) : Result :=
  .next (finish 3 20 (memWrite (memWrite s nn (loByte s.sp)) (nn + 1) (hiByte s.sp)))

/-- `LD SP,HL` (R162). -/
def execLdSpHl (s : State) : Result := .next (finish 1 8 { s with sp := regHL s })

/-- `LD HL,SP+e` (R163). -/
def execLdHlSpE (e : Byte) (s : State) : Result :=
  .next (finish 2 12 { setHL s (spPlus s e) with flags := spFlags s.sp e })

/-- `PUSH rr` (R164). -/
def execPushRr (qq : StackPair) (s : State) : Result := .next (finish 1 16 (push16 s (getStackPair s qq)))

/-- `PUSH AF` (R165). -/
def execPushAf (s : State) : Result := .next (finish 1 16 (push16 s (mkWord s.a (packFlags s.flags))))

/-- `POP rr` (R166). -/
def execPopRr (qq : StackPair) (s : State) : Result := .next (finish 1 12 (setStackPair (popSp s) qq (popWord s)))

/-- `POP AF` (R167). -/
def execPopAf (s : State) : Result :=
  .next (finish 1 12 { popSp s with a := hiByte (popWord s), flags := unpackFlags (loByte (popWord s)) })

end Sys2Proof.Machine
end

