-- ==== Sys2Proof/Machine/Load8.lean ====
section
/-! DEFINITION. The 8-bit loads (40_load8.md). None writes a flag; none can fault. -/

namespace Sys2Proof.Machine

/-- `LD r,r'` (R140). -/
def execLdRR (dst src : Reg8) (s : State) : Result := .next (finish 1 4 (setReg s dst (getReg s src)))

/-- `LD r,n` (R141). -/
def execLdRN (dst : Reg8) (n : Byte) (s : State) : Result := .next (finish 2 8 (setReg s dst n))

/-- `LD r,(HL)` (R142): the address is HL before the write. -/
def execLdRHl (dst : Reg8) (s : State) : Result := .next (finish 1 8 (setReg s dst (readHL s)))

/-- `LD (HL),r` (R143). -/
def execLdHlR (src : Reg8) (s : State) : Result := .next (finish 1 8 (writeHL s (getReg s src)))

/-- `LD (HL),n` (R144). -/
def execLdHlN (n : Byte) (s : State) : Result := .next (finish 2 12 (writeHL s n))

/-- `LD A,(BC)` (R145). -/
def execLdABc (s : State) : Result := .next (finish 1 8 { s with a := memRead s (regBC s) })

/-- `LD A,(DE)` (R146). -/
def execLdADe (s : State) : Result := .next (finish 1 8 { s with a := memRead s (regDE s) })

/-- `LD (BC),A` (R147). -/
def execLdBcA (s : State) : Result := .next (finish 1 8 (memWrite s (regBC s) s.a))

/-- `LD (DE),A` (R148). -/
def execLdDeA (s : State) : Result := .next (finish 1 8 (memWrite s (regDE s) s.a))

/-- `LD A,(nn)` (R149). -/
def execLdANn (nn : Word) (s : State) : Result := .next (finish 3 16 { s with a := memRead s nn })

/-- `LD (nn),A` (R150). -/
def execLdNnA (nn : Word) (s : State) : Result := .next (finish 3 16 (memWrite s nn s.a))

/-- `LDH A,(C)` (R151). -/
def execLdhAC (s : State) : Result := .next (finish 1 8 { s with a := memRead s (highPage s.c) })

/-- `LDH (C),A` (R152). -/
def execLdhCA (s : State) : Result := .next (finish 1 8 (memWrite s (highPage s.c) s.a))

/-- `LDH A,(n)` (R153). -/
def execLdhAN (n : Byte) (s : State) : Result := .next (finish 2 12 { s with a := memRead s (highPage n) })

/-- `LDH (n),A` (R154). -/
def execLdhNA (n : Byte) (s : State) : Result := .next (finish 2 12 (memWrite s (highPage n) s.a))

/-- `LD A,(HL-)` (R155). -/
def execLdAHld (s : State) : Result := .next (finish 1 8 (setHL { s with a := readHL s } (regHL s - 1)))

/-- `LD (HL-),A` (R156). -/
def execLdHldA (s : State) : Result := .next (finish 1 8 (setHL (writeHL s s.a) (regHL s - 1)))

/-- `LD A,(HL+)` (R157). -/
def execLdAHli (s : State) : Result := .next (finish 1 8 (setHL { s with a := readHL s } (regHL s + 1)))

/-- `LD (HL+),A` (R158). -/
def execLdHliA (s : State) : Result := .next (finish 1 8 (setHL (writeHL s s.a) (regHL s + 1)))

end Sys2Proof.Machine
end

