-- ==== Sys2Proof/WellFormed.lean ====
section
/-! DEFINITION. Which terms of `Instr` are instructions by themselves. The operand types are exact (seven registers, a
3-bit bit number, an 8-bit immediate), so ONE check is left: the prefix byte. -/

namespace Sys2Proof

/-- R276: "the prefix is not an instruction on its own", and each of its 256 second bytes selects an instruction that
has a constructor of its own; so a `prefixCb` term is a second spelling and is refused here (log 8). -/
def Instr.wellFormed : Instr → Bool
  | .prefixCb _ => false
  | _ => true

end Sys2Proof
end

