-- ==== Sys2Proof/Decode.lean ====
section
/-! DEFINITION. The decoder (30_encoding.md R110 to R124, R127) and, after it, an encoder written from the same
encoding tables. Decoding needs no state but the bytes (R124). -/

namespace Sys2Proof

/-! ### Field codes -/

/-- `x`, bits 7:6 of an opcode byte (R112). -/
def fieldX (b : Byte) : Nat := b.toNat / 64

/-- `y`, bits 5:3 (R112). -/
def fieldY (b : Byte) : Nat := b.toNat / 8 % 8

/-- `z`, bits 2:0 (R112). -/
def fieldZ (b : Byte) : Nat := b.toNat % 8

/-- The register of an 8-bit operand code; code 6, `(HL)`, is none (R113). -/
def Reg8.ofCode : Nat → Option Reg8
  | 0 => some .b
  | 1 => some .c
  | 2 => some .d
  | 3 => some .e
  | 4 => some .h
  | 5 => some .l
  | 7 => some .a
  | _ => none

/-- The 8-bit operand code of a register (R113). -/
def Reg8.code : Reg8 → Nat
  | .b => 0
  | .c => 1
  | .d => 2
  | .e => 3
  | .h => 4
  | .l => 5
  | .a => 7

/-- The pair of a 16-bit operand code 0 to 3 (R114). -/
def Pair.ofCode : Nat → Pair
  | 0 => .bc
  | 1 => .de
  | 2 => .hl
  | _ => .sp

/-- The 16-bit operand code (R114). -/
def Pair.code : Pair → Nat
  | .bc => 0
  | .de => 1
  | .hl => 2
  | .sp => 3

/-- The pair of a stack pair code; code 3, `AF`, is none (R115). -/
def StackPair.ofCode : Nat → Option StackPair
  | 0 => some .bc
  | 1 => some .de
  | 2 => some .hl
  | _ => none

/-- The stack pair code (R115). -/
def StackPair.code : StackPair → Nat
  | .bc => 0
  | .de => 1
  | .hl => 2

/-- The condition of a condition code 0 to 3 (R116). -/
def Cond.ofCode : Nat → Cond
  | 0 => .nz
  | 1 => .z
  | 2 => .nc
  | _ => .c

/-- The condition code (R116). -/
def Cond.code : Cond → Nat
  | .nz => 0
  | .z => 1
  | .nc => 2
  | .c => 3

/-! ### The decoder -/

/-- `alu[y] A,r` for a register (R117). -/
def decodeAluR (y : Nat) (r : Reg8) : Instr :=
  match y with
  | 0 => .addR r
  | 1 => .adcR r
  | 2 => .subR r
  | 3 => .sbcR r
  | 4 => .andR r
  | 5 => .xorR r
  | 6 => .orR r
  | _ => .cpR r

/-- `alu[y] A,(HL)` (R117). -/
def decodeAluHl (y : Nat) : Instr :=
  match y with
  | 0 => .addHl
  | 1 => .adcHl
  | 2 => .subHl
  | 3 => .sbcHl
  | 4 => .andHl
  | 5 => .xorHl
  | 6 => .orHl
  | _ => .cpHl

/-- `alu[y] A,n` (R117). -/
def decodeAluN (y : Nat) (n : Byte) : Instr :=
  match y with
  | 0 => .addN n
  | 1 => .adcN n
  | 2 => .subN n
  | 3 => .sbcN n
  | 4 => .andN n
  | 5 => .xorN n
  | 6 => .orN n
  | _ => .cpN n

/-- `rot[y] r` (R118). -/
def decodeRotR (y : Nat) (r : Reg8) : Instr :=
  match y with
  | 0 => .rlcR r
  | 1 => .rrcR r
  | 2 => .rlR r
  | 3 => .rrR r
  | 4 => .slaR r
  | 5 => .sraR r
  | 6 => .swapR r
  | _ => .srlR r

/-- `rot[y] (HL)` (R118). -/
def decodeRotHl (y : Nat) : Instr :=
  match y with
  | 0 => .rlcHl
  | 1 => .rrcHl
  | 2 => .rlHl
  | 3 => .rrHl
  | 4 => .slaHl
  | 5 => .sraHl
  | 6 => .swapHl
  | _ => .srlHl

/-- The base map for `x = 0` (R127). -/
def decodeX0 (y z : Nat) (n : Byte) (nn : Word) : Instr :=
  match z with
  | 0 =>
    match y with
    | 0 => .nop
    | 1 => .ldNnSp nn
    | 2 => .stop n
    | 3 => .jrE n
    | _ => .jrCcE (Cond.ofCode (y - 4)) n
  | 1 => if y % 2 = 0 then .ldRrNn (Pair.ofCode (y / 2)) nn else .addHlRr (Pair.ofCode (y / 2))
  | 2 =>
    match y with
    | 0 => .ldBcA
    | 1 => .ldABc
    | 2 => .ldDeA
    | 3 => .ldADe
    | 4 => .ldHliA
    | 5 => .ldAHli
    | 6 => .ldHldA
    | _ => .ldAHld
  | 3 => if y % 2 = 0 then .incRr (Pair.ofCode (y / 2)) else .decRr (Pair.ofCode (y / 2))
  | 4 =>
    match Reg8.ofCode y with
    | some r => .incR r
    | none => .incHl
  | 5 =>
    match Reg8.ofCode y with
    | some r => .decR r
    | none => .decHl
  | 6 =>
    match Reg8.ofCode y with
    | some r => .ldRN r n
    | none => .ldHlN n
  | _ =>
    match y with
    | 0 => .rlca
    | 1 => .rrca
    | 2 => .rla
    | 3 => .rra
    | 4 => .daa
    | 5 => .cpl
    | 6 => .scf
    | _ => .ccf

/-- The base map for `x = 1` (R127): `LD r[y],r[z]`, and `HALT` where both codes are 6 (R113). -/
def decodeX1 (y z : Nat) : Instr :=
  match Reg8.ofCode y, Reg8.ofCode z with
  | some dst, some src => .ldRR dst src
  | some dst, none => .ldRHl dst
  | none, some src => .ldHlR src
  | none, none => .halt

/-- The base map for `x = 2` (R127): `alu[y] A,r[z]`. -/
def decodeX2 (y z : Nat) : Instr :=
  match Reg8.ofCode z with
  | some r => decodeAluR y r
  | none => decodeAluHl y

/-- The base map for `x = 3` (R127), without the prefix 0xCB; the undefined bytes are R122. -/
def decodeX3 (y z : Nat) (n : Byte) (nn : Word) : Instr :=
  match z with
  | 0 =>
    match y with
    | 4 => .ldhNA n
    | 5 => .addSpE n
    | 6 => .ldhAN n
    | 7 => .ldHlSpE n
    | _ => .retCc (Cond.ofCode y)
  | 1 =>
    match y with
    | 1 => .ret
    | 3 => .reti
    | 5 => .jpHl
    | 7 => .ldSpHl
    | _ =>
      match StackPair.ofCode (y / 2) with
      | some q => .popRr q
      | none => .popAf
  | 2 =>
    match y with
    | 4 => .ldhCA
    | 5 => .ldNnA nn
    | 6 => .ldhAC
    | 7 => .ldANn nn
    | _ => .jpCcNn (Cond.ofCode y) nn
  | 3 =>
    match y with
    | 0 => .jpNn nn
    | 1 => .prefixCb n
    | 2 => .illegalD3
    | 3 => .illegalDB
    | 4 => .illegalE3
    | 5 => .illegalEB
    | 6 => .di
    | _ => .ei
  | 4 =>
    match y with
    | 4 => .illegalE4
    | 5 => .illegalEC
    | 6 => .illegalF4
    | 7 => .illegalFC
    | _ => .callCcNn (Cond.ofCode y) nn
  | 5 =>
    match y with
    | 1 => .callNn nn
    | 3 => .illegalDD
    | 5 => .illegalED
    | 7 => .illegalFD
    | _ =>
      match StackPair.ofCode (y / 2) with
      | some q => .pushRr q
      | none => .pushAf
  | 6 => decodeAluN y n
  | _ => .rstT (BitVec.ofNat 3 y)

/-- The secondary map (R121): the instruction that the byte after 0xCB selects; all 256 values are defined. -/
def decodeCb (op2 : Byte) : Instr :=
  match fieldX op2, Reg8.ofCode (fieldZ op2) with
  | 0, some r => decodeRotR (fieldY op2) r
  | 0, none => decodeRotHl (fieldY op2)
  | 1, some r => .bitBR (BitVec.ofNat 3 (fieldY op2)) r
  | 1, none => .bitBHl (BitVec.ofNat 3 (fieldY op2))
  | 2, some r => .resBR (BitVec.ofNat 3 (fieldY op2)) r
  | 2, none => .resBHl (BitVec.ofNat 3 (fieldY op2))
  | _, some r => .setBR (BitVec.ofNat 3 (fieldY op2)) r
  | _, none => .setBHl (BitVec.ofNat 3 (fieldY op2))

/-- The instruction whose first byte is `b0`, with `b1` and `b2` the two bytes after it (R124). Every first byte has an
answer: 244 defined bytes, the prefix with its 256 second bytes, and the 11 undefined bytes, which are rows of their own
(R123). -/
def decodeWindow (b0 b1 b2 : Byte) : Instr :=
  if b0 = 0xCB#8 then decodeCb b1
  else
    match fieldX b0 with
    | 0 => decodeX0 (fieldY b0) (fieldZ b0) b1 (Machine.mkWord b2 b1)
    | 1 => decodeX1 (fieldY b0) (fieldZ b0)
    | 2 => decodeX2 (fieldY b0) (fieldZ b0)
    | _ => decodeX3 (fieldY b0) (fieldZ b0) b1 (Machine.mkWord b2 b1)

/-- How many bytes the instruction has, from its first byte alone (R110). -/
def lengthOf (b0 : Byte) : Nat :=
  if b0.toNat ∈ [0x06, 0x0E, 0x10, 0x16, 0x18, 0x1E, 0x20, 0x26, 0x28, 0x2E, 0x30, 0x36, 0x38, 0x3E, 0xC6, 0xCE, 0xD6,
      0xDE, 0xE0, 0xE6, 0xE8, 0xEE, 0xF0, 0xF6, 0xF8, 0xFE, 0xCB] then 2
  else if b0.toNat ∈ [0x01, 0x08, 0x11, 0x21, 0x31, 0xC2, 0xC3, 0xC4, 0xCA, 0xCC, 0xCD, 0xD2, 0xD4, 0xDA, 0xDC, 0xEA,
      0xFA] then 3
  else 1

/-- Why a list of bytes holds no instruction. The machine never meets either case: a fetch always has its bytes. -/
inductive DecodeError where
  /-- There is no byte. -/
  | noBytes
  /-- The list ends inside the instruction that starts with this byte. -/
  | truncated (op : Byte)
  deriving DecidableEq, Repr

/-- The decoder on a list of bytes: the first instruction and the bytes after it. -/
def decode : List Byte → Except DecodeError (Instr × List Byte)
  | [] => .error .noBytes
  | b0 :: rest =>
    if rest.length + 1 < lengthOf b0 then .error (.truncated b0)
    else .ok (decodeWindow b0 (rest.getD 0 0) (rest.getD 1 0), rest.drop (lengthOf b0 - 1))

/-! ### The numbering of opcode_table.json -/

/-- The three bytes of an instruction whose table bits are `w`, every bit above `nbits` 0. A 16-bit row is the word
`{b0, b1}` of R124, so its first byte, the prefix 0xCB, is bits 15:8 (log 11); any other row counts its bytes up from bit 0. -/
def tableBytes (nbits w : Nat) : List Byte :=
  let v := w % 2 ^ nbits
  if nbits = 16 ∧ v / 256 = 0xCB then [0xCB#8, BitVec.ofNat 8 v, 0#8]
  else [BitVec.ofNat 8 v, BitVec.ofNat 8 (v / 256), BitVec.ofNat 8 (v / 65536)]

/-- The instruction the decoder reads from an instruction whose table bits are `w`. -/
def decodeTableWord (nbits w : Nat) : Option Instr :=
  match decode (tableBytes nbits w) with
  | .ok (i, _) => some i
  | .error _ => none

/-! ### The encoder -/

/-- The opcode byte `{x, y, z}` (R112). -/
def opByte (x y z : Nat) : Byte := BitVec.ofNat 8 (64 * x + 8 * y + z)

/-- A prefixed instruction: format FCB (R111). -/
def encodeCb (x y z : Nat) : List Byte := [0xCB#8, opByte x y z]

/-- An opcode byte and a 16-bit operand, low byte first: format F3 (R111, R119). -/
def encodeF3 (op : Byte) (nn : Word) : List Byte := [op, Machine.loByte nn, Machine.hiByte nn]

/-- The bytes of an instruction, from its `encoding` in opcode_table.json and the codes of R113 to R118. -/
def encode : Instr → List Byte
  | .ldRR dst src => [opByte 1 dst.code src.code]
  | .ldRN dst n => [opByte 0 dst.code 6, n]
  | .ldRHl dst => [opByte 1 dst.code 6]
  | .ldHlR src => [opByte 1 6 src.code]
  | .ldHlN n => [0x36#8, n]
  | .ldABc => [0x0A#8]
  | .ldADe => [0x1A#8]
  | .ldBcA => [0x02#8]
  | .ldDeA => [0x12#8]
  | .ldANn nn => encodeF3 0xFA#8 nn
  | .ldNnA nn => encodeF3 0xEA#8 nn
  | .ldhAC => [0xF2#8]
  | .ldhCA => [0xE2#8]
  | .ldhAN n => [0xF0#8, n]
  | .ldhNA n => [0xE0#8, n]
  | .ldAHld => [0x3A#8]
  | .ldHldA => [0x32#8]
  | .ldAHli => [0x2A#8]
  | .ldHliA => [0x22#8]
  | .ldRrNn rr nn => encodeF3 (opByte 0 (2 * rr.code) 1) nn
  | .ldNnSp nn => encodeF3 0x08#8 nn
  | .ldSpHl => [0xF9#8]
  | .ldHlSpE e => [0xF8#8, e]
  | .pushRr qq => [opByte 3 (2 * qq.code) 5]
  | .pushAf => [0xF5#8]
  | .popRr qq => [opByte 3 (2 * qq.code) 1]
  | .popAf => [0xF1#8]
  | .addR src => [opByte 2 0 src.code]
  | .addHl => [0x86#8]
  | .addN n => [0xC6#8, n]
  | .adcR src => [opByte 2 1 src.code]
  | .adcHl => [0x8E#8]
  | .adcN n => [0xCE#8, n]
  | .subR src => [opByte 2 2 src.code]
  | .subHl => [0x96#8]
  | .subN n => [0xD6#8, n]
  | .sbcR src => [opByte 2 3 src.code]
  | .sbcHl => [0x9E#8]
  | .sbcN n => [0xDE#8, n]
  | .andR src => [opByte 2 4 src.code]
  | .andHl => [0xA6#8]
  | .andN n => [0xE6#8, n]
  | .xorR src => [opByte 2 5 src.code]
  | .xorHl => [0xAE#8]
  | .xorN n => [0xEE#8, n]
  | .orR src => [opByte 2 6 src.code]
  | .orHl => [0xB6#8]
  | .orN n => [0xF6#8, n]
  | .cpR src => [opByte 2 7 src.code]
  | .cpHl => [0xBE#8]
  | .cpN n => [0xFE#8, n]
  | .incR dst => [opByte 0 dst.code 4]
  | .incHl => [0x34#8]
  | .decR dst => [opByte 0 dst.code 5]
  | .decHl => [0x35#8]
  | .daa => [0x27#8]
  | .cpl => [0x2F#8]
  | .scf => [0x37#8]
  | .ccf => [0x3F#8]
  | .addHlRr rr => [opByte 0 (2 * rr.code + 1) 1]
  | .incRr rr => [opByte 0 (2 * rr.code) 3]
  | .decRr rr => [opByte 0 (2 * rr.code + 1) 3]
  | .addSpE e => [0xE8#8, e]
  | .rlca => [0x07#8]
  | .rla => [0x17#8]
  | .rrca => [0x0F#8]
  | .rra => [0x1F#8]
  | .rlcR r => encodeCb 0 0 r.code
  | .rlcHl => encodeCb 0 0 6
  | .rrcR r => encodeCb 0 1 r.code
  | .rrcHl => encodeCb 0 1 6
  | .rlR r => encodeCb 0 2 r.code
  | .rlHl => encodeCb 0 2 6
  | .rrR r => encodeCb 0 3 r.code
  | .rrHl => encodeCb 0 3 6
  | .slaR r => encodeCb 0 4 r.code
  | .slaHl => encodeCb 0 4 6
  | .sraR r => encodeCb 0 5 r.code
  | .sraHl => encodeCb 0 5 6
  | .swapR r => encodeCb 0 6 r.code
  | .swapHl => encodeCb 0 6 6
  | .srlR r => encodeCb 0 7 r.code
  | .srlHl => encodeCb 0 7 6
  | .bitBR b r => encodeCb 1 b.toNat r.code
  | .bitBHl b => encodeCb 1 b.toNat 6
  | .resBR b r => encodeCb 2 b.toNat r.code
  | .resBHl b => encodeCb 2 b.toNat 6
  | .setBR b r => encodeCb 3 b.toNat r.code
  | .setBHl b => encodeCb 3 b.toNat 6
  | .jpNn nn => encodeF3 0xC3#8 nn
  | .jpCcNn cc nn => encodeF3 (opByte 3 cc.code 2) nn
  | .jpHl => [0xE9#8]
  | .jrE e => [0x18#8, e]
  | .jrCcE cc e => [opByte 0 (4 + cc.code) 0, e]
  | .callNn nn => encodeF3 0xCD#8 nn
  | .callCcNn cc nn => encodeF3 (opByte 3 cc.code 4) nn
  | .ret => [0xC9#8]
  | .retCc cc => [opByte 3 cc.code 0]
  | .reti => [0xD9#8]
  | .rstT t => [opByte 3 t.toNat 7]
  | .nop => [0x00#8]
  | .halt => [0x76#8]
  | .ei => [0xFB#8]
  | .di => [0xF3#8]
  | .stop n => [0x10#8, n]
  | .prefixCb op2 => [0xCB#8, op2]
  | .illegalD3 => [0xD3#8]
  | .illegalDB => [0xDB#8]
  | .illegalDD => [0xDD#8]
  | .illegalE3 => [0xE3#8]
  | .illegalE4 => [0xE4#8]
  | .illegalEB => [0xEB#8]
  | .illegalEC => [0xEC#8]
  | .illegalED => [0xED#8]
  | .illegalF4 => [0xF4#8]
  | .illegalFC => [0xFC#8]
  | .illegalFD => [0xFD#8]

end Sys2Proof
end

