-- ==== Sys2Proof/Machine/Rotate.lean ====
section
/-! DEFINITION. Rotates, shifts and bit operations (44_rotate_shift_bit.md). The length counts the prefix; the ticks cover
prefix and operation. -/

namespace Sys2Proof.Machine

/-- `RLCA` (R221). -/
def execRlca (s : State) : Result := .next (finish 1 4 (setA s (rotAOut .rlc s.a s.flags.c)))

/-- `RLA` (R222). -/
def execRla (s : State) : Result := .next (finish 1 4 (setA s (rotAOut .rl s.a s.flags.c)))

/-- `RRCA` (R223). -/
def execRrca (s : State) : Result := .next (finish 1 4 (setA s (rotAOut .rrc s.a s.flags.c)))

/-- `RRA` (R224). -/
def execRra (s : State) : Result := .next (finish 1 4 (setA s (rotAOut .rr s.a s.flags.c)))

/-- `RLC r` (R225). -/
def execRlcR (r : Reg8) (s : State) : Result := .next (finish 2 8 (setRegFlags s r (rotOut .rlc (getReg s r) false)))

/-- `RLC (HL)` (R226). -/
def execRlcHl (s : State) : Result := .next (finish 2 16 (setHLFlags s (rotOut .rlc (readHL s) false)))

/-- `RRC r` (R227). -/
def execRrcR (r : Reg8) (s : State) : Result := .next (finish 2 8 (setRegFlags s r (rotOut .rrc (getReg s r) false)))

/-- `RRC (HL)` (R228). -/
def execRrcHl (s : State) : Result := .next (finish 2 16 (setHLFlags s (rotOut .rrc (readHL s) false)))

/-- `RL r` (R229). -/
def execRlR (r : Reg8) (s : State) : Result :=
  .next (finish 2 8 (setRegFlags s r (rotOut .rl (getReg s r) s.flags.c)))

/-- `RL (HL)` (R230). -/
def execRlHl (s : State) : Result := .next (finish 2 16 (setHLFlags s (rotOut .rl (readHL s) s.flags.c)))

/-- `RR r` (R231). -/
def execRrR (r : Reg8) (s : State) : Result :=
  .next (finish 2 8 (setRegFlags s r (rotOut .rr (getReg s r) s.flags.c)))

/-- `RR (HL)` (R232). -/
def execRrHl (s : State) : Result := .next (finish 2 16 (setHLFlags s (rotOut .rr (readHL s) s.flags.c)))

/-- `SLA r` (R233). -/
def execSlaR (r : Reg8) (s : State) : Result := .next (finish 2 8 (setRegFlags s r (rotOut .sla (getReg s r) false)))

/-- `SLA (HL)` (R234). -/
def execSlaHl (s : State) : Result := .next (finish 2 16 (setHLFlags s (rotOut .sla (readHL s) false)))

/-- `SRA r` (R235). -/
def execSraR (r : Reg8) (s : State) : Result := .next (finish 2 8 (setRegFlags s r (rotOut .sra (getReg s r) false)))

/-- `SRA (HL)` (R236). -/
def execSraHl (s : State) : Result := .next (finish 2 16 (setHLFlags s (rotOut .sra (readHL s) false)))

/-- `SWAP r` (R237). -/
def execSwapR (r : Reg8) (s : State) : Result :=
  .next (finish 2 8 (setRegFlags s r (rotOut .swap (getReg s r) false)))

/-- `SWAP (HL)` (R238). -/
def execSwapHl (s : State) : Result := .next (finish 2 16 (setHLFlags s (rotOut .swap (readHL s) false)))

/-- `SRL r` (R239). -/
def execSrlR (r : Reg8) (s : State) : Result := .next (finish 2 8 (setRegFlags s r (rotOut .srl (getReg s r) false)))

/-- `SRL (HL)` (R240). -/
def execSrlHl (s : State) : Result := .next (finish 2 16 (setHLFlags s (rotOut .srl (readHL s) false)))

/-- `BIT b,r` (R241). -/
def execBitBR (b : BitVec 3) (r : Reg8) (s : State) : Result :=
  .next (finish 2 8 { s with flags := bitFlags (getReg s r) b s.flags })

/-- `BIT b,(HL)` (R242): one read, no write. -/
def execBitBHl (b : BitVec 3) (s : State) : Result :=
  .next (finish 2 12 { s with flags := bitFlags (readHL s) b s.flags })

/-- `RES b,r` (R243). -/
def execResBR (b : BitVec 3) (r : Reg8) (s : State) : Result :=
  .next (finish 2 8 (setReg s r (clearBit (getReg s r) b.toNat)))

/-- `RES b,(HL)` (R244): the write happens even when the value does not change. -/
def execResBHl (b : BitVec 3) (s : State) : Result := .next (finish 2 16 (writeHL s (clearBit (readHL s) b.toNat)))

/-- `SET b,r` (R245). -/
def execSetBR (b : BitVec 3) (r : Reg8) (s : State) : Result :=
  .next (finish 2 8 (setReg s r (setBit (getReg s r) b.toNat)))

/-- `SET b,(HL)` (R246). -/
def execSetBHl (b : BitVec 3) (s : State) : Result := .next (finish 2 16 (writeHL s (setBit (readHL s) b.toNat)))

end Sys2Proof.Machine
end

