-- ==== Sys2Proof/Machine/Prefixed.lean ====
section
/-! DEFINITION. The prefix byte 0xCB as a row of its own (46_misc_control.md R276; log 8). -/

namespace Sys2Proof.Machine

/-- The rotate or shift of a register that operation code `y` selects (R118). -/
def runRotR (y : Nat) (r : Reg8) (s : State) : Result :=
  match y with
  | 0 => execRlcR r s
  | 1 => execRrcR r s
  | 2 => execRlR r s
  | 3 => execRrR r s
  | 4 => execSlaR r s
  | 5 => execSraR r s
  | 6 => execSwapR r s
  | _ => execSrlR r s

/-- The rotate or shift of the byte at HL that operation code `y` selects (R118). -/
def runRotHl (y : Nat) (s : State) : Result :=
  match y with
  | 0 => execRlcHl s
  | 1 => execRrcHl s
  | 2 => execRlHl s
  | 3 => execRrHl s
  | 4 => execSlaHl s
  | 5 => execSraHl s
  | 6 => execSwapHl s
  | _ => execSrlHl s

/-- `PREFIX CB` with its operand, the following byte: "execute the rule selected by `op2`" (R276, R121). -/
def execPrefixCb (op2 : Byte) (s : State) : Result :=
  let b := BitVec.ofNat 3 (fieldY op2)
  match fieldX op2, Reg8.ofCode (fieldZ op2) with
  | 0, some r => runRotR (fieldY op2) r s
  | 0, none => runRotHl (fieldY op2) s
  | 1, some r => execBitBR b r s
  | 1, none => execBitBHl b s
  | 2, some r => execResBR b r s
  | 2, none => execResBHl b s
  | _, some r => execSetBR b r s
  | _, none => execSetBHl b s

end Sys2Proof.Machine
end

