-- ==== Sys2Proof/Machine/System.lean ====
section
/-! DEFINITION. CPU control and the undefined bytes (46_misc_control.md). -/

namespace Sys2Proof.Machine

/-- `NOP` (R271). -/
def execNop (s : State) : Result := .next (finish 1 4 s)

/-- `HALT` (R272): with IME = 1 it waits, PC already past it; with IME = 0 it is a `NOP`. -/
def execHalt (s : State) : Result := .next (finish 1 4 { s with haltWait := s.haltWait || s.ime })

/-- `EI` (R273): at once (D4). -/
def execEi (s : State) : Result := .next (finish 1 4 { s with ime := true })

/-- `DI` (R274): at once (D11). -/
def execDi (s : State) : Result := .next (finish 1 4 { s with ime := false })

/-- `STOP` (R275), by the parameter `STOP_BEHAVIOUR`: `nop2` is PC past the two bytes, 4 ticks, nothing else; `refuse`
is a refusal. The model's value is `nop2` (log 6). Byte 1 is ignored (R128). -/
def execStop (_n : Byte) (s : State) : Result :=
  match stopBehaviour with
  | .nop2 => .next (finish 2 4 s)
  | .refuse => .refused .stopRefused

/-- The undefined byte 0xD3 (R277): `raise IllegalOpcode`. -/
def execIllegalD3 (s : State) : Result := .next (raiseIllegalOpcode 0xD3 s)

/-- The undefined byte 0xDB (R277): `raise IllegalOpcode`. -/
def execIllegalDB (s : State) : Result := .next (raiseIllegalOpcode 0xDB s)

/-- The undefined byte 0xDD (R277): `raise IllegalOpcode`. -/
def execIllegalDD (s : State) : Result := .next (raiseIllegalOpcode 0xDD s)

/-- The undefined byte 0xE3 (R277): `raise IllegalOpcode`. -/
def execIllegalE3 (s : State) : Result := .next (raiseIllegalOpcode 0xE3 s)

/-- The undefined byte 0xE4 (R277): `raise IllegalOpcode`. -/
def execIllegalE4 (s : State) : Result := .next (raiseIllegalOpcode 0xE4 s)

/-- The undefined byte 0xEB (R277): `raise IllegalOpcode`. -/
def execIllegalEB (s : State) : Result := .next (raiseIllegalOpcode 0xEB s)

/-- The undefined byte 0xEC (R277): `raise IllegalOpcode`. -/
def execIllegalEC (s : State) : Result := .next (raiseIllegalOpcode 0xEC s)

/-- The undefined byte 0xED (R277): `raise IllegalOpcode`. -/
def execIllegalED (s : State) : Result := .next (raiseIllegalOpcode 0xED s)

/-- The undefined byte 0xF4 (R277): `raise IllegalOpcode`. -/
def execIllegalF4 (s : State) : Result := .next (raiseIllegalOpcode 0xF4 s)

/-- The undefined byte 0xFC (R277): `raise IllegalOpcode`. -/
def execIllegalFC (s : State) : Result := .next (raiseIllegalOpcode 0xFC s)

/-- The undefined byte 0xFD (R277): `raise IllegalOpcode`. -/
def execIllegalFD (s : State) : Result := .next (raiseIllegalOpcode 0xFD s)

end Sys2Proof.Machine
end

