-- ==== Sys2Proof/Machine/Fetch.lean ====
section
/-! DEFINITION. Reading an instruction's bytes at PC (20_memory.md R99; 30_encoding.md R119, R124), and placing bytes where
a fetch reads them, for the host's questions. -/

namespace Sys2Proof.Machine

/-- The instruction at PC. Its bytes are ordinary reads, which change nothing (R93, R99); reading three bytes at once, of
which the decoder uses the instruction's own, is log 9. -/
def fetchInstr (s : State) : Instr :=
  decodeWindow (memRead s s.pc) (memRead s (s.pc + 1)) (memRead s (s.pc + 2))

/-- The cartridge of `s`, or a new one of two banks of 0x00. -/
def cartOrBlank (s : State) : RomImage := s.cart.getD { length := 0x8000, bytes := [] }

/-- `s` with the byte that `MemRead(a, 1)` returns made `v`, changing the cell that answers the read: the boot ROM, the
cartridge image (a two-bank one is inserted where there is none), the work RAM cell of a mirror address, the divider's high
byte, else the cell itself. JOYP can return only some values (log 16). -/
def placeByte (s : State) (a : Word) (v : Byte) : State :=
  let n := a.toNat
  if s.bootMapped = true ∧ n ≤ 0x00FF then { s with bootRom := s.bootRom.place n v }
  else if n < 0x8000 then
    { s with cart := some ((cartOrBlank s).place (romOffset (cartOrBlank s) s.romBank n) v) }
  else if 0xA000 ≤ n ∧ n ≤ 0xBFFF then { poke s n v with cart := some (cartOrBlank s) }
  else if 0xE000 ≤ n ∧ n ≤ 0xFDFF then poke s (n - 0x2000) v
  else if n = addrDIV then { s with div16 := mkWord v (loByte s.div16) }
  else poke s n v

/-- `s` with the bytes placed from address `a` on. -/
def placeBytes (s : State) (a : Word) : List Byte → State
  | [] => s
  | v :: vs => placeBytes (placeByte s a v) (a + 1) vs

/-- `s` with these bytes as its next instruction, and fetching: not halted, not waiting (R270). -/
def placeInstr (s : State) (bs : List Byte) : State :=
  placeBytes { s with halted := false, fault := none, haltWait := false } s.pc bs

end Sys2Proof.Machine
end

