-- ==== Sys2Proof/Machine/Input.lean ====
section
/-! DEFINITION. The host's input (60_exceptions.md R340). -/

namespace Sys2Proof.Machine

/-- Whether a button is newly reported pressed: 1 in the stored mask, 0 in the new one (R340). -/
def newlyPressed (s : State) (i : HostInput) : Bool :=
  decide ((s.joyDpad &&& ~~~i.dpad) ≠ 0) || decide ((s.joyBtn &&& ~~~i.btn) ≠ 0)

/-- `HandleInput(dpad, btn)` (R340). -/
def handleInput (i : HostInput) (s : State) : State :=
  let s1 := if newlyPressed s i then regWrite s addrIF (setBit (regRead s addrIF) 4) else s
  { s1 with joyDpad := i.dpad, joyBtn := i.btn }

end Sys2Proof.Machine
end

