-- ==== Sys2Proof/Machine/Interrupts.lean ====
section
/-! DEFINITION. The interrupt dispatcher (60_exceptions.md R305 to R314). -/

namespace Sys2Proof.Machine

/-- The interrupt that would be dispatched: the lowest bit that is 1 in IF and in IE (R310, R311). Bits 7:5 take no part
(R306). -/
def pendingInterrupt (s : State) : Option Nat :=
  [0, 1, 2, 3, 4].find? fun i => bit (regRead s addrIF) i && bit (regRead s addrIE) i

/-- `HandleInterrupts` (R310). -/
def handleInterrupts (s : State) : State :=
  if s.ime = false then s
  else
    match pendingInterrupt s with
    | some i => takeInterrupt i s
    | none => s

end Sys2Proof.Machine
end

