-- ==== Sys2Proof/Machine/Ppu.lean ====
section
/-! DEFINITION. The PPU (60_exceptions.md R350 to R365): the scanline state machine, the sprite search, the background,
window and sprite multiplexer and the palette look-up. -/

namespace Sys2Proof.Machine

/-! ### Registers -/

/-- LCDC bit `i` (R44). -/
def lcdcBit (s : State) (i : Nat) : Bool := bit (regRead s addrLCDC) i

/-- LY (R48). -/
def ly (s : State) : Nat := (regRead s addrLY).toNat

/-- The mode, STAT bits 1:0 (R46). -/
def statMode (s : State) : BitVec 2 := BitVec.extractLsb' 0 2 (regRead s addrSTAT)

/-- `STAT[1:0] <- m`. -/
def setMode (s : State) (m : BitVec 2) : State := regWrite s addrSTAT (putLow2 (regRead s addrSTAT) m)

/-- The sprite height `h` (R354). -/
def spriteHeight (s : State) : Nat := if lcdcBit s 2 then 16 else 8

/-! ### The sprite search -/

/-- OAM entry `k`: Y, X, tile, flags (R354). -/
def oamEntry (s : State) (k : Nat) : Sprite :=
  { y := peek s (0xFE00 + 4 * k)
    x := peek s (0xFE01 + 4 * k)
    tile := peek s (0xFE02 + 4 * k)
    flags := peek s (0xFE03 + 4 * k)
    oamIndex := k }

/-- `Y <= LY + 16 < Y + h` (R354). -/
def onLine (s : State) (sp : Sprite) : Bool :=
  decide (sp.y.toNat ≤ ly s + 16) && decide (ly s + 16 < sp.y.toNat + spriteHeight s)

/-- The first 10 entries on the line, in OAM order (R354). -/
def searchOam (s : State) : List Sprite :=
  (((List.range 40).map (oamEntry s)).filter (onLine s)).take maxSprites

/-- `OamSearch; searched <- 1` where it has not been done for this line (R350, R354). -/
def oamSearch (s : State) : State :=
  if s.searched then s else { s with visible := searchOam s, searched := true }

/-! ### Pixels -/

/-- `TilePixel(a, col, row)` (R360). -/
def tilePixel (s : State) (a col row : Nat) : BitVec 2 :=
  let lo := peek s (a + 2 * row)
  let hi := peek s (a + 2 * row + 1)
  BitVec.ofBool (bit hi (7 - col)) ++ BitVec.ofBool (bit lo (7 - col))

/-- `TileAddr(t)` (R360). -/
def tileAddr (s : State) (t : Byte) : Nat :=
  if lcdcBit s 4 then 0x8000 + 16 * t.toNat else ((0x9000 : Int) + 16 * t.toInt).toNat

/-- The shade of colour index `i` in a palette register (R50, R362). -/
def paletteShade (pal : Byte) (i : BitVec 2) : BitVec 2 := BitVec.extractLsb' (2 * i.toNat) 2 pal

/-- The background or window cell at map coordinates `(px, py)` of the map at `m` (R358, R359). -/
def mapCell (s : State) (m px py : Nat) : FbCell :=
  let t := peek s (m + 32 * (py / 8) + px / 8)
  let idx := tilePixel s (tileAddr s t) (px % 8) (py % 8)
  { shade := paletteShade (regRead s addrBGP) idx, index := idx, isSprite := false }

/-- The background cell of column `x` (R358). -/
def backgroundCell (s : State) (x : Nat) : FbCell :=
  if lcdcBit s 0 then
    mapCell s (if lcdcBit s 3 then 0x9C00 else 0x9800) ((x + (regRead s addrSCX).toNat) % 256)
      ((ly s + (regRead s addrSCY).toNat) % 256)
  else blankCell

/-- Whether the window covers column `x`: `LCDC[5] = 1`, `LY >= WY`, `x >= WX - 7` in integers (R359). -/
def windowCovers (s : State) (x : Nat) : Bool :=
  lcdcBit s 5 && decide ((regRead s addrWY).toNat ≤ ly s) && decide ((regRead s addrWX).toNat ≤ x + 7)

/-- The window cell of column `x` (R359). -/
def windowCell (s : State) (x : Nat) : FbCell :=
  mapCell s (if lcdcBit s 6 then 0x9C00 else 0x9800) (x + 7 - (regRead s addrWX).toNat)
    (ly s - (regRead s addrWY).toNat)

/-- The cell of column `x` before the sprites (R357). -/
def baseCell (s : State) (x : Nat) : FbCell := if windowCovers s x then windowCell s x else backgroundCell s x

/-- The row of sprite `sp` on this line, flipped where flag 6 says so, in integers (R361; log 12). -/
def spriteRow (s : State) (sp : Sprite) : Int :=
  let row : Int := (ly s : Int) + 16 - sp.y.toNat
  if bit sp.flags 6 then (spriteHeight s : Int) - 1 - row else row

/-- The tile of a sprite at that row: in 8 × 16 mode `{tile[7:1], (row >= 8)}` (R361). -/
def spriteTile (s : State) (sp : Sprite) : Byte :=
  if spriteHeight s = 16 then putBit sp.tile 0 (decide (spriteRow s sp ≥ 8)) else sp.tile

/-- The colour index of sprite `sp` at column `x`; 0, transparent, where it does not cover the column (R361). -/
def spriteIndex (s : State) (x : Nat) (sp : Sprite) : BitVec 2 :=
  let col : Int := (x : Int) - ((sp.x.toNat : Int) - 8)
  if col < 0 ∨ col > 7 then 0
  else
    let c := if bit sp.flags 5 then 7 - col.toNat else col.toNat
    tilePixel s (0x8000 + 16 * (spriteTile s sp).toNat) c (spriteRow s sp % 8).toNat

/-- The sprite palette register: flag 4 (R361). -/
def spritePalette (s : State) (sp : Sprite) : Byte :=
  if bit sp.flags 4 then regRead s addrOBP1 else regRead s addrOBP0

/-- The multiplexer at column `x` over `bg`: the first opaque sprite pixel decides (R361). -/
def spriteMux (s : State) (x : Nat) (bg : FbCell) : List Sprite → FbCell
  | [] => bg
  | sp :: rest =>
    let idx := spriteIndex s x sp
    if idx = 0 then spriteMux s x bg rest
    else if bit sp.flags 7 = true ∧ bg.index ≠ 0 then bg
    else { shade := paletteShade (spritePalette s sp) idx, index := idx, isSprite := true }

/-- The cell of column `x` (R357). -/
def pixel (s : State) (x : Nat) : FbCell :=
  if lcdcBit s 1 then spriteMux s x (baseCell s x) s.visible else baseCell s x

/-- The 160 cells of row LY (R357). -/
def lineCells (s : State) : List FbCell := (List.range lcdWidth).map (pixel s)

/-- `PixelTransfer; drawn <- 1` where it has not been done for this line (R350, R357). -/
def pixelTransfer (s : State) : State :=
  if s.drawn then s else { s with fb := s.fb.setRow (ly s) (lineCells s), drawn := true }

/-! ### The scanline state machine -/

/-- `LycCompare(ly)` (R356). -/
def lycCompare (line : Nat) (s : State) : State :=
  let stat := regRead s addrSTAT
  if line = (regRead s addrLYC).toNat then
    let s1 := regWrite s addrSTAT (setBit stat 2)
    if bit stat 6 then regWrite s1 addrIF (setBit (regRead s1 addrIF) 1) else s1
  else regWrite s addrSTAT (clearBit stat 2)

/-- The V-Blank request and mode 1 at line 144 (R355). -/
def enterVBlank (s : State) : State := setMode (regWrite s addrIF (setBit (regRead s addrIF) 0)) 1

/-- The excess ticks kept, the two done flags of the line cleared (R350). `visible` keeps its value (log 17). -/
def startLine (s : State) : State :=
  { s with lineCycles := s.lineCycles - lineTicks, searched := false, drawn := false }

/-- A frame counted at the wrap to line 0 (R33, R352). -/
def countFrame (s : State) : State := { s with frameDone := s.frameDone + 1 }

/-- Into the line `line`: the comparison with LYC below 144, V-Blank at 144, the wrap to 0 after 153 (R352). -/
def enterLine (line : Nat) (s : State) : State :=
  if line < lcdHeight then regWrite (lycCompare line s) addrLY (BitVec.ofNat 8 line)
  else if line = lcdHeight then regWrite (enterVBlank s) addrLY (BitVec.ofNat 8 line)
  else if line > lastLine then regWrite (countFrame s) addrLY 0
  else regWrite s addrLY (BitVec.ofNat 8 line)

/-- The crossing into a new line (R350, R352). -/
def crossLine (s : State) : State := enterLine (ly s + 1) (startLine s)

/-- The phase of the line (R350, R353). -/
def linePhase (s : State) : State :=
  if ly s < lcdHeight then
    if s.lineCycles < oamEnd then oamSearch (setMode s 2)
    else if s.lineCycles < xferEnd then pixelTransfer (oamSearch (setMode s 3))
    else setMode s 0
  else setMode s 1

/-- The LCD off (R351). -/
def lcdOff (s : State) : State :=
  setMode { regWrite s addrLY 0 with lineCycles := 0, searched := false, drawn := false } 0

/-- `line_cycles <- line_cycles + n` (R350). -/
def addLineTicks (n : Nat) (s : State) : State := { s with lineCycles := s.lineCycles + n }

/-- `PpuUpdate(n)` (R350). -/
def ppuUpdate (n : Nat) (s : State) : State :=
  if lcdcBit s 7 = false then lcdOff s
  else
    let s1 := addLineTicks n s
    linePhase (if s1.lineCycles ≥ lineTicks then crossLine s1 else s1)

/-! ### What a renderer reads -/

/-- The RGBA value of a cell (R362): a function of the framebuffer with no effect on the machine. -/
def cellColour (c : FbCell) : Rgba := Config.shadeRgba c.shade

end Sys2Proof.Machine
end

