-- ==== Sys2Proof/Machine/Timer.lean ====
section
/-! DEFINITION. The timer and divider (60_exceptions.md R330, R331). -/

namespace Sys2Proof.Machine

/-- The threshold that TAC selects (R41). -/
def timerLimit (s : State) : Nat := timerThreshold ((regRead s addrTAC).toNat % 4)

/-- One increment of TIMA: the reload and the request on overflow (R330). -/
def timaIncrement (s : State) : State :=
  let tima := regRead s addrTIMA
  if tima = 0xFF then
    let s1 := regWrite s addrTIMA (regRead s addrTMA)
    regWrite s1 addrIF (setBit (regRead s1 addrIF) 2)
  else regWrite s addrTIMA (tima + 1)

/-- `TimerTick(n)` (R330): at most one increment a call, the sub-counter cleared, not reduced. -/
def timerTick (n : Nat) (s : State) : State :=
  let s1 := { s with div16 := s.div16 + BitVec.ofNat 16 n }
  if bit (regRead s1 addrTAC) 2 = false then s1
  else
    let s2 := { s1 with tsub := s1.tsub + n }
    if s2.tsub ≥ timerLimit s2 then { timaIncrement s2 with tsub := 0 } else s2

end Sys2Proof.Machine
end

