-- ==== Sys2Proof/Machine/Console.lean ====
section
/-! DEFINITION. `CpuStep` and the sequencer `ConsoleStep` (46_misc_control.md R270; 60_exceptions.md R320, R321). -/

namespace Sys2Proof.Machine

/-- `CpuStep` (R270): nothing but 4 ticks while halted or waiting, else the instruction at PC. -/
def cpuStep (s : State) : Result :=
  if s.halted = true ∨ s.haltWait = true then .next { s with cycles := haltedCycles } else exec (fetchInstr s) s

/-- What the host does at a frame boundary: the head of its list, a `HandleInput` call or none (R321, R340; log 10). -/
def hostTurn (s : State) : State :=
  match s.inputs with
  | [] => s
  | none :: rest => { s with inputs := rest }
  | some i :: rest => handleInput i { s with inputs := rest }

/-- `FrameAccount(n)`, and the host's turn where the step is a frame boundary (R321). -/
def frameAccount (n : Nat) (s : State) : State :=
  if s.frameCycles + n ≥ frameTicks then hostTurn { s with frameCycles := s.frameCycles + n - frameTicks }
  else { s with frameCycles := s.frameCycles + n }

/-- The dispatcher's place in the step: not called while halted (R320). -/
def serviceInterrupts (s : State) : State := if s.halted then s else handleInterrupts s

/-- What `ConsoleStep` does after `CpuStep`, with that step's ticks (R320). -/
def afterCpu (s : State) : State :=
  let n := s.cycles
  frameAccount n (ppuUpdate n (timerTick n (serviceInterrupts s)))

/-- `ConsoleStep` (R320). -/
def consoleStep (s : State) : Result :=
  match cpuStep s with
  | .next t => .next (afterCpu t)
  | .fault r => .fault r
  | .refused r => .refused r

end Sys2Proof.Machine
end

