-- ==== Sys2Proof/Machine/Step.lean ====
section
/-! DEFINITION. One step of the machine, and placing an instruction where it is fetched next. -/

namespace Sys2Proof.Machine

/-- One step: `ConsoleStep`, "the only way the machine advances" (R320). -/
def step (s : State) : Host.Outcome State Fault Refusal := consoleStep s

/-- `s` with the instruction whose opcode-table bits are `w` stored at PC (three bytes, the bits above `nbits` 0), so
that the next step runs it (log 16). -/
def State.withFetchWord (s : State) (nbits w : Nat) : State := placeInstr s (tableBytes nbits w)

end Sys2Proof.Machine
end

