-- ==== Sys2Proof/Safety.lean ====
section
/-! DEFINITION. The terms claims are written in: a good state (the canonical forms and the ranges that the spec states,
each kept by every step), what it is for an instruction to run, which addresses a store can reach, and the ALU's laws as
relations between integers. -/

namespace Sys2Proof.Machine

/-- Whether the cell `mem[n]` can ever be written: not below 0x8000 (R76), not in the mirror range, which is an alias
(R67, R77), and not DIV, which has no backing cell (R39). -/
def backedAddr (n : Nat) : Bool :=
  decide (0x8000 ≤ n) && !(decide (0xE000 ≤ n) && decide (n ≤ 0xFDFF)) && decide (n ≠ addrDIV)

/-- A good state. -/
structure Inv (s : State) : Prop where
  /-- memory is in canonical form -/
  memWf : Memory.wf s.mem = true
  /-- only cells that can be written are listed -/
  memBacked : s.mem.all (fun p => backedAddr p.1) = true
  /-- the framebuffer is in canonical form, rows of 160 cells -/
  fbWf : Framebuffer.wf s.fb = true
  /-- `line_cycles` is 0 to 455 between updates (R33) -/
  lineCycles_lt : s.lineCycles < 456
  /-- `tsub` stays below the largest threshold between ticks (R31, R330) -/
  tsub_lt : s.tsub < 1024
  /-- `frame_cycles` stays below `FRAME_CYCLES` (R321) -/
  frameCycles_lt : s.frameCycles < 70224
  /-- at most 10 sprites are retained (R33, R354) -/
  visible_le : s.visible.length ≤ 10
  /-- the fault is recorded exactly when the CPU is halted (R27) -/
  fault_iff : s.fault.isSome = s.halted
  /-- every count is a multiple of 4, at most 24 (R420) -/
  cycles_le : s.cycles ≤ 24 ∧ s.cycles % 4 = 0

/-! ### Running an instruction -/

/-- The bytes `bs` are the instruction `i`, whatever follows them. -/
def Encodes (bs : List Byte) (i : Instr) : Prop := ∀ rest, decode (bs ++ rest) = .ok (i, rest)

/-- `i` at `s` completes: its effect is `t`, with PC moved past its `len` bytes and the step's ticks recorded (R11, R24). -/
def Runs (i : Instr) (s : State) (len ticks : Nat) (t : State) : Prop :=
  exec i s = .next { t with pc := s.pc + BitVec.ofNat 16 len, cycles := ticks }

/-- `i` at `s` completes with PC set to `target` (R11). -/
def Jumps (i : Instr) (s : State) (target : Word) (ticks : Nat) (t : State) : Prop :=
  exec i s = .next { t with pc := target, cycles := ticks }

/-- `i` at `s` completes with a new A and new flags for which `P` holds, and nothing else changed but PC and the ticks. -/
def RunsToA (i : Instr) (s : State) (len ticks : Nat) (P : Byte → Flags → Prop) : Prop :=
  ∃ r f, P r f ∧ Runs i s len ticks { s with a := r, flags := f }

/-- As `RunsToA` for the register `dst`. -/
def RunsToReg (i : Instr) (s : State) (dst : Reg8) (len ticks : Nat) (P : Byte → Flags → Prop) : Prop :=
  ∃ r f, P r f ∧ Runs i s len ticks { setReg s dst r with flags := f }

/-- As `RunsToA` for the byte at HL, written through the CPU write path. -/
def RunsToHl (i : Instr) (s : State) (len ticks : Nat) (P : Byte → Flags → Prop) : Prop :=
  ∃ r f, P r f ∧ Runs i s len ticks { memWrite s (regHL s) r with flags := f }

/-- As `RunsToA` with only the flags written. -/
def RunsToFlags (i : Instr) (s : State) (len ticks : Nat) (P : Flags → Prop) : Prop :=
  ∃ f, P f ∧ Runs i s len ticks { s with flags := f }

/-- The two bytes `Push16(v)` stores, through the CPU write path, and SP after it (R25). -/
def Pushed (s : State) (v : Word) : State :=
  { memWrite (memWrite s (s.sp - 1) (hiByte v)) (s.sp - 2) (loByte v) with sp := s.sp - 2 }

/-! ### The ALU's laws, in integers -/

/-- `Add8(a, b, c)` (R170). -/
def IsAdd8 (a b : Byte) (c : Bool) (r : Byte) (f : Flags) : Prop :=
  r.toNat = (a.toNat + b.toNat + c.toNat) % 256 ∧
    (f.z = true ↔ (a.toNat + b.toNat + c.toNat) % 256 = 0) ∧ f.n = false ∧
    (f.h = true ↔ a.toNat % 16 + b.toNat % 16 + c.toNat > 0xF) ∧
    (f.c = true ↔ a.toNat + b.toNat + c.toNat > 0xFF)

/-- `Sub8(a, b, c)` (R171). -/
def IsSub8 (a b : Byte) (c : Bool) (r : Byte) (f : Flags) : Prop :=
  (r.toNat : Int) = ((a.toNat : Int) - b.toNat - c.toNat) % 256 ∧
    (f.z = true ↔ ((a.toNat : Int) - b.toNat - c.toNat) % 256 = 0) ∧ f.n = true ∧
    (f.h = true ↔ a.toNat % 16 < b.toNat % 16 + c.toNat) ∧
    (f.c = true ↔ a.toNat < b.toNat + c.toNat)

/-- A logical operation's result `x` and flags; `hf` is 1 for `AND` (R172). -/
def IsLogic (x : Byte) (hf : Bool) (r : Byte) (f : Flags) : Prop :=
  r = x ∧ (f.z = true ↔ x = 0) ∧ f.n = false ∧ f.h = hf ∧ f.c = false

/-- A rotate or shift: its result, its evicted bit, and Z either from the result or cleared (R220 to R240). -/
def IsRot (x : Nat) (out zFromResult : Bool) (r : Byte) (f : Flags) : Prop :=
  r.toNat = x ∧ (f.z = true ↔ zFromResult = true ∧ x = 0) ∧ f.n = false ∧ f.h = false ∧ f.c = out

/-! ### What a store reaches -/

/-- The addresses whose read a store at `a` can change: `a` itself, its work RAM alias (R67, R77), OAM for the DMA trigger
(R81), the boot overlay (R73), the ROM window for a bank select (R74). -/
def Touches (a b : Word) : Prop :=
  b = a ∨
    (0xC000 ≤ a.toNat ∧ a.toNat ≤ 0xDDFF ∧ b.toNat = a.toNat + 0x2000) ∨
    (0xE000 ≤ a.toNat ∧ a.toNat ≤ 0xFDFF ∧ b.toNat + 0x2000 = a.toNat) ∨
    (a.toNat = addrDMA ∧ 0xFE00 ≤ b.toNat ∧ b.toNat ≤ 0xFE9F) ∨
    (a.toNat = addrBOOT ∧ b.toNat ≤ 0x00FF) ∨
    (0x2000 ≤ a.toNat ∧ a.toNat ≤ 0x3FFF ∧ 0x4000 ≤ b.toNat ∧ b.toNat ≤ 0x7FFF)

/-- An address where a store only stores and a read returns the byte stored: video RAM, work RAM, OAM, high RAM, IE and
the registers with no rule of their own for it (R69, R77, R84). -/
def PlainCell (a : Word) : Prop :=
  (0x8000 ≤ a.toNat ∧ a.toNat ≤ 0x9FFF) ∨ (0xC000 ≤ a.toNat ∧ a.toNat ≤ 0xDFFF) ∨
    (0xFE00 ≤ a.toNat ∧ a.toNat ≠ addrJOYP ∧ a.toNat ≠ addrDIV ∧ a.toNat ≠ addrSTAT ∧ a.toNat ≠ addrDMA ∧
      a.toNat ≠ addrBOOT)

/-! ### The sprites of a line -/

/-- `found` is what `OamSearch` keeps at `s`, in the words of R354: entries of OAM on line LY, in OAM order, at most 10,
and an entry on the line that is left out comes after 10 that are kept. -/
def IsSearch (s : State) (found : List Sprite) : Prop :=
  let height := if (peek s 0xFF40).getLsbD 2 = true then 16 else 8
  let line := (peek s 0xFF44).toNat
  let entry (k : Nat) : Sprite :=
    { y := peek s (0xFE00 + 4 * k), x := peek s (0xFE01 + 4 * k), tile := peek s (0xFE02 + 4 * k),
      flags := peek s (0xFE03 + 4 * k), oamIndex := k }
  let onIt (k : Nat) : Prop := (entry k).y.toNat ≤ line + 16 ∧ line + 16 < (entry k).y.toNat + height
  (∀ sp ∈ found, ∃ k < 40, sp = entry k ∧ onIt k) ∧
    found.Pairwise (fun p q => p.oamIndex < q.oamIndex) ∧ found.length ≤ 10 ∧
    ∀ k < 40, onIt k → entry k ∉ found → found.length = 10 ∧ ∀ sp ∈ found, sp.oamIndex < k

/-! ### Kinds of instruction -/

/-- The opcode byte of an undefined byte's row (R122, R277). -/
def illegalByte : Instr → Option Byte
  | .illegalD3 => some 0xD3
  | .illegalDB => some 0xDB
  | .illegalDD => some 0xDD
  | .illegalE3 => some 0xE3
  | .illegalE4 => some 0xE4
  | .illegalEB => some 0xEB
  | .illegalEC => some 0xEC
  | .illegalED => some 0xED
  | .illegalF4 => some 0xF4
  | .illegalFC => some 0xFC
  | .illegalFD => some 0xFD
  | _ => none

/-- The instructions that set PC themselves (R24; 45_control_flow.md) and the undefined bytes, which leave it (R300). -/
def setsPc : Instr → Bool
  | .jpNn _ | .jpCcNn _ _ | .jpHl | .jrE _ | .jrCcE _ _ | .callNn _ | .callCcNn _ _ | .ret | .retCc _ | .reti
  | .rstT _ => true
  | i => (illegalByte i).isSome

end Sys2Proof.Machine
end

