-- ==== Sys2Proof/Certificates/Slice0/Obligations.lean ====
section
/-! DEFINITION. The statements for the provers. `Runs i s len ticks t` says that `exec i s` ANSWERS the next state `t` with
PC moved past `len` bytes and the ticks recorded, so every clause of that form is a completion, a result and a frame at
once: a field not named in `t` keeps its value. -/

open Sys2Proof Sys2Proof.Machine

/-! ### Encoding -/

/-- Words written out bit by bit from the encodings of the rules decode to the instructions they stand for: the first
opcodes of R140, R141, R144, R160, R165, R184, R194, R199, R210, R232, R241, R254, R256, R260, R272, R277. -/
def Obligations.DecodeExamples : Prop :=
  decode [0b01000111] = .ok (.ldRR .b .a, []) ∧
    decode [0b00000110, 0x42] = .ok (.ldRN .b 0x42, []) ∧
    decode [0b00110110, 0xAB] = .ok (.ldHlN 0xAB, []) ∧
    decode [0b00100001, 0x34, 0x12] = .ok (.ldRrNn .hl 0x1234, []) ∧
    decode [0b11110101] = .ok (.pushAf, []) ∧
    decode [0b11011110, 0x07] = .ok (.sbcN 0x07, []) ∧
    decode [0b10111000] = .ok (.cpR .b, []) ∧
    decode [0b00000101] = .ok (.decR .b, []) ∧
    decode [0b00111001] = .ok (.addHlRr .sp, []) ∧
    decode [0b11001011, 0b00011110] = .ok (.rrHl, []) ∧
    decode [0b11001011, 0b01111100] = .ok (.bitBR 7 .h, []) ∧
    decode [0b00100000, 0xFB] = .ok (.jrCcE .nz 0xFB, []) ∧
    decode [0b11011100, 0x00, 0x20] = .ok (.callCcNn .c 0x2000, []) ∧
    decode [0b11111111] = .ok (.rstT 7, []) ∧
    decode [0b01110110] = .ok (.halt, []) ∧
    decode [0b11010011] = .ok (.illegalD3, [])

/-- Decoding the encoding of a well-formed instruction gives it back, whatever bytes follow: no operand bit is lost. -/
def Obligations.DecodeEncode : Prop :=
  ∀ (i : Instr) (rest : List Byte), i.wellFormed = true → decode (encode i ++ rest) = .ok (i, rest)

/-- What the decoder answers is well-formed, and its encoding is the bytes that were consumed: each encoding selects
exactly one instruction (R123). -/
def Obligations.EncodeDecode : Prop :=
  ∀ (bs rest : List Byte) (i : Instr), decode bs = .ok (i, rest) → i.wellFormed = true ∧ encode i ++ rest = bs

/-- R110: an instruction has 1, 2 or 3 bytes, and the first byte alone decides how many: the lists of lengths 2 and 3. -/
def Obligations.LengthFromFirstByte : Prop :=
  ∀ (b0 : Byte) (bs rest : List Byte) (i : Instr), decode (b0 :: bs) = .ok (i, rest) →
    rest.length + (encode i).length = bs.length + 1 ∧
    ((encode i).length = 2 ↔ b0.toNat ∈ [0x06, 0x0E, 0x10, 0x16, 0x18, 0x1E, 0x20, 0x26, 0x28, 0x2E, 0x30, 0x36, 0x38,
      0x3E, 0xC6, 0xCE, 0xD6, 0xDE, 0xE0, 0xE6, 0xE8, 0xEE, 0xF0, 0xF6, 0xF8, 0xFE, 0xCB]) ∧
    ((encode i).length = 3 ↔ b0.toNat ∈ [0x01, 0x08, 0x11, 0x21, 0x31, 0xC2, 0xC3, 0xC4, 0xCA, 0xCC, 0xCD, 0xD2, 0xD4,
      0xDA, 0xDC, 0xEA, 0xFA]) ∧
    ((encode i).length = 1 ∨ (encode i).length = 2 ∨ (encode i).length = 3)

/-- R122: exactly eleven first bytes have no defined behaviour, each with a row of its own; as a byte after the prefix 0xCB
the same values are ordinary. -/
def Obligations.UndefinedBytes : Prop :=
  (∀ b0 b1 b2 : Byte, b0.toNat ∈ [0xD3, 0xDB, 0xDD, 0xE3, 0xE4, 0xEB, 0xEC, 0xED, 0xF4, 0xFC, 0xFD] →
      illegalByte (decodeWindow b0 b1 b2) = some b0) ∧
    (∀ b0 b1 b2 : Byte, b0.toNat ∉ [0xD3, 0xDB, 0xDD, 0xE3, 0xE4, 0xEB, 0xEC, 0xED, 0xF4, 0xFC, 0xFD] →
      illegalByte (decodeWindow b0 b1 b2) = none)

/-! ### Registers -/

/-- R20, R21: seven registers with storage, none hard-wired; a pair is the alias `{first, second}` of its two halves; a
write of one changes no other. -/
def Obligations.RegisterFile : Prop :=
  (∀ (s : State) (r r' : Reg8) (v : Byte), getReg (setReg s r v) r' = if r' = r then v else getReg s r') ∧
    (∀ (s : State) (r : Reg8) (v : Byte),
      setReg s r v = { s with a := getReg (setReg s r v) .a, b := getReg (setReg s r v) .b,
                              c := getReg (setReg s r v) .c, d := getReg (setReg s r v) .d,
                              e := getReg (setReg s r v) .e, h := getReg (setReg s r v) .h,
                              l := getReg (setReg s r v) .l }) ∧
    (∀ s : State, (getPair s .bc).toNat = 256 * (getReg s .b).toNat + (getReg s .c).toNat ∧
      (getPair s .de).toNat = 256 * (getReg s .d).toNat + (getReg s .e).toNat ∧
      (getPair s .hl).toNat = 256 * (getReg s .h).toNat + (getReg s .l).toNat ∧ getPair s .sp = s.sp) ∧
    (∀ (s : State) (p : Pair) (v : Word), getPair (setPair s p v) p = v) ∧
    (∀ (s : State) (v : Word),
      setPair s .bc v = setReg (setReg s .b (BitVec.extractLsb' 8 8 v)) .c (BitVec.extractLsb' 0 8 v) ∧
      setPair s .de v = setReg (setReg s .d (BitVec.extractLsb' 8 8 v)) .e (BitVec.extractLsb' 0 8 v) ∧
      setPair s .hl v = setReg (setReg s .h (BitVec.extractLsb' 8 8 v)) .l (BitVec.extractLsb' 0 8 v) ∧
      setPair s .sp v = { s with sp := v })

/-! ### 8-bit loads -/

/-- R140, R141: `LD r,r'` and `LD r,n`. No flag is written. -/
def Obligations.RegisterLoads : Prop :=
  ∀ (s : State) (dst src : Reg8) (n : Byte),
    Encodes [BitVec.ofNat 8 (0b01000000 + 8 * dst.code + src.code)] (.ldRR dst src) ∧
    Runs (.ldRR dst src) s 1 4 (setReg s dst (getReg s src)) ∧
    Encodes [BitVec.ofNat 8 (0b00000110 + 8 * dst.code), n] (.ldRN dst n) ∧
    Runs (.ldRN dst n) s 2 8 (setReg s dst n)

/-- R142, R145, R146, R149, R151, R153, R155, R157: the loads from memory, each through the CPU read path at the address of
the state before; `LD A,(HL-)` and `LD A,(HL+)` step HL after the read. No flag and no memory is written. -/
def Obligations.MemoryLoads : Prop :=
  ∀ (s : State) (dst : Reg8) (n : Byte) (nn : Word),
    Encodes [BitVec.ofNat 8 (0b01000110 + 8 * dst.code)] (.ldRHl dst) ∧
    Runs (.ldRHl dst) s 1 8 (setReg s dst (memRead s (regHL s))) ∧
    Encodes [0b00001010] .ldABc ∧ Runs .ldABc s 1 8 { s with a := memRead s (regBC s) } ∧
    Encodes [0b00011010] .ldADe ∧ Runs .ldADe s 1 8 { s with a := memRead s (regDE s) } ∧
    Encodes [0b11111010, BitVec.extractLsb' 0 8 nn, BitVec.extractLsb' 8 8 nn] (.ldANn nn) ∧
    Runs (.ldANn nn) s 3 16 { s with a := memRead s nn } ∧
    Encodes [0b11110010] .ldhAC ∧ Runs .ldhAC s 1 8 { s with a := memRead s (0xFF00 + s.c.setWidth 16) } ∧
    Encodes [0b11110000, n] (.ldhAN n) ∧
    Runs (.ldhAN n) s 2 12 { s with a := memRead s (0xFF00 + n.setWidth 16) } ∧
    Encodes [0b00111010] .ldAHld ∧
    Runs .ldAHld s 1 8 (setPair { s with a := memRead s (regHL s) } .hl (regHL s - 1)) ∧
    Encodes [0b00101010] .ldAHli ∧
    Runs .ldAHli s 1 8 (setPair { s with a := memRead s (regHL s) } .hl (regHL s + 1))

/-- R143, R144, R147, R148, R150, R152, R154, R156, R158: the stores, each one `MemWrite` at the address of the state
before; `LD (HL-),A` and `LD (HL+),A` step HL after the write. No flag is written. -/
def Obligations.MemoryStores : Prop :=
  ∀ (s : State) (src : Reg8) (n : Byte) (nn : Word),
    Encodes [BitVec.ofNat 8 (0b01110000 + src.code)] (.ldHlR src) ∧
    Runs (.ldHlR src) s 1 8 (memWrite s (regHL s) (getReg s src)) ∧
    Encodes [0b00110110, n] (.ldHlN n) ∧ Runs (.ldHlN n) s 2 12 (memWrite s (regHL s) n) ∧
    Encodes [0b00000010] .ldBcA ∧ Runs .ldBcA s 1 8 (memWrite s (regBC s) s.a) ∧
    Encodes [0b00010010] .ldDeA ∧ Runs .ldDeA s 1 8 (memWrite s (regDE s) s.a) ∧
    Encodes [0b11101010, BitVec.extractLsb' 0 8 nn, BitVec.extractLsb' 8 8 nn] (.ldNnA nn) ∧
    Runs (.ldNnA nn) s 3 16 (memWrite s nn s.a) ∧
    Encodes [0b11100010] .ldhCA ∧ Runs .ldhCA s 1 8 (memWrite s (0xFF00 + s.c.setWidth 16) s.a) ∧
    Encodes [0b11100000, n] (.ldhNA n) ∧
    Runs (.ldhNA n) s 2 12 (memWrite s (0xFF00 + n.setWidth 16) s.a) ∧
    Encodes [0b00110010] .ldHldA ∧
    Runs .ldHldA s 1 8 (setPair (memWrite s (regHL s) s.a) .hl (regHL s - 1)) ∧
    Encodes [0b00100010] .ldHliA ∧
    Runs .ldHliA s 1 8 (setPair (memWrite s (regHL s) s.a) .hl (regHL s + 1))

/-! ### 16-bit loads and the stack -/

/-- R160, R161, R162, R163: the 16-bit loads; `LD (nn),SP` stores the low byte first; the half-carry and carry of
`LD HL,SP+e` come from the low byte of SP and the raw byte. -/
def Obligations.WordLoads : Prop :=
  ∀ (s : State) (rr : Pair) (nn : Word) (e : Byte),
    Encodes [BitVec.ofNat 8 (0b00000001 + 16 * rr.code), BitVec.extractLsb' 0 8 nn, BitVec.extractLsb' 8 8 nn]
      (.ldRrNn rr nn) ∧
    Runs (.ldRrNn rr nn) s 3 12 (setPair s rr nn) ∧
    Encodes [0b00001000, BitVec.extractLsb' 0 8 nn, BitVec.extractLsb' 8 8 nn] (.ldNnSp nn) ∧
    Runs (.ldNnSp nn) s 3 20
      (memWrite (memWrite s nn (BitVec.extractLsb' 0 8 s.sp)) (nn + 1) (BitVec.extractLsb' 8 8 s.sp)) ∧
    Encodes [0b11111001] .ldSpHl ∧ Runs .ldSpHl s 1 8 { s with sp := regHL s } ∧
    Encodes [0b11111000, e] (.ldHlSpE e) ∧
    Runs (.ldHlSpE e) s 2 12
      { setPair s .hl (s.sp + e.signExtend 16) with
        flags := { z := false
                   n := false
                   h := decide (s.sp.toNat % 16 + e.toNat % 16 > 0xF)
                   c := decide (s.sp.toNat % 256 + e.toNat > 0xFF) } }

/-- R164, R165: a push stores the high byte at SP - 1, then the low byte at SP - 2, through the CPU write path; the byte
pushed for F has Z, N, HF, CY in bits 7 to 4 and zeros below (R23). -/
def Obligations.Pushes : Prop :=
  ∀ (s : State) (qq : StackPair),
    Encodes [BitVec.ofNat 8 (0b11000101 + 16 * qq.code)] (.pushRr qq) ∧
    Runs (.pushRr qq) s 1 16 (Pushed s (match qq with | .bc => regBC s | .de => regDE s | .hl => regHL s)) ∧
    Encodes [0b11110101] .pushAf ∧
    Runs .pushAf s 1 16
      { memWrite (memWrite s (s.sp - 1) s.a) (s.sp - 2)
          (BitVec.ofNat 8 (128 * s.flags.z.toNat + 64 * s.flags.n.toNat + 32 * s.flags.h.toNat +
            16 * s.flags.c.toNat)) with
        sp := s.sp - 2 }

/-- R166, R167: a pop reads the low byte at SP and the high byte at SP + 1; `POP AF` takes the flags from bits 7 to 4. -/
def Obligations.Pops : Prop :=
  ∀ (s : State) (qq : StackPair),
    Encodes [BitVec.ofNat 8 (0b11000001 + 16 * qq.code)] (.popRr qq) ∧
    Runs (.popRr qq) s 1 12
      (match qq with
      | .bc => { s with c := memRead s s.sp, b := memRead s (s.sp + 1), sp := s.sp + 2 }
      | .de => { s with e := memRead s s.sp, d := memRead s (s.sp + 1), sp := s.sp + 2 }
      | .hl => { s with l := memRead s s.sp, h := memRead s (s.sp + 1), sp := s.sp + 2 }) ∧
    Encodes [0b11110001] .popAf ∧
    Runs .popAf s 1 12
      { s with
        a := memRead s (s.sp + 1)
        flags := { z := (memRead s s.sp).getLsbD 7
                   n := (memRead s s.sp).getLsbD 6
                   h := (memRead s s.sp).getLsbD 5
                   c := (memRead s s.sp).getLsbD 4 }
        sp := s.sp + 2 }

/-- `PUSH AF` then `POP AF` restores A, the four flags and SP exactly, where the stack lies in cells that store: the
round trip of R23, with F in the high nibble by the spec's decision D2 (log 15). -/
def Obligations.PushPopAf : Prop :=
  ∀ s t u : State, Memory.wf s.mem = true → PlainCell (s.sp - 1) → PlainCell (s.sp - 2) →
    exec .pushAf s = .next t → exec .popAf t = .next u → u.a = s.a ∧ u.flags = s.flags ∧ u.sp = s.sp

/-! ### 8-bit arithmetic and logic -/

/-- R170, R173 to R178: `ADD` and `ADC` with a register, the byte at HL and an immediate: sum, Z, N, half-carry and carry
from unbounded integers; `ADC` adds the old carry. -/
def Obligations.AddAdc : Prop :=
  ∀ (s : State) (src : Reg8) (n : Byte),
    Encodes [BitVec.ofNat 8 (0b10000000 + src.code)] (.addR src) ∧
    RunsToA (.addR src) s 1 4 (IsAdd8 s.a (getReg s src) false) ∧
    Encodes [0b10000110] .addHl ∧ RunsToA .addHl s 1 8 (IsAdd8 s.a (memRead s (regHL s)) false) ∧
    Encodes [0b11000110, n] (.addN n) ∧ RunsToA (.addN n) s 2 8 (IsAdd8 s.a n false) ∧
    Encodes [BitVec.ofNat 8 (0b10001000 + src.code)] (.adcR src) ∧
    RunsToA (.adcR src) s 1 4 (IsAdd8 s.a (getReg s src) s.flags.c) ∧
    Encodes [0b10001110] .adcHl ∧ RunsToA .adcHl s 1 8 (IsAdd8 s.a (memRead s (regHL s)) s.flags.c) ∧
    Encodes [0b11001110, n] (.adcN n) ∧ RunsToA (.adcN n) s 2 8 (IsAdd8 s.a n s.flags.c)

/-- R171, R179 to R184: `SUB` and `SBC`: difference, Z, N, half-borrow and borrow from unbounded integers. -/
def Obligations.SubSbc : Prop :=
  ∀ (s : State) (src : Reg8) (n : Byte),
    Encodes [BitVec.ofNat 8 (0b10010000 + src.code)] (.subR src) ∧
    RunsToA (.subR src) s 1 4 (IsSub8 s.a (getReg s src) false) ∧
    Encodes [0b10010110] .subHl ∧ RunsToA .subHl s 1 8 (IsSub8 s.a (memRead s (regHL s)) false) ∧
    Encodes [0b11010110, n] (.subN n) ∧ RunsToA (.subN n) s 2 8 (IsSub8 s.a n false) ∧
    Encodes [BitVec.ofNat 8 (0b10011000 + src.code)] (.sbcR src) ∧
    RunsToA (.sbcR src) s 1 4 (IsSub8 s.a (getReg s src) s.flags.c) ∧
    Encodes [0b10011110] .sbcHl ∧ RunsToA .sbcHl s 1 8 (IsSub8 s.a (memRead s (regHL s)) s.flags.c) ∧
    Encodes [0b11011110, n] (.sbcN n) ∧ RunsToA (.sbcN n) s 2 8 (IsSub8 s.a n s.flags.c)

/-- R172, R185 to R193: `AND`, `XOR`, `OR`; the half-carry is 1 after `AND` only. -/
def Obligations.Logic : Prop :=
  ∀ (s : State) (src : Reg8) (n : Byte),
    Encodes [BitVec.ofNat 8 (0b10100000 + src.code)] (.andR src) ∧
    RunsToA (.andR src) s 1 4 (IsLogic (s.a &&& getReg s src) true) ∧
    Encodes [0b10100110] .andHl ∧ RunsToA .andHl s 1 8 (IsLogic (s.a &&& memRead s (regHL s)) true) ∧
    Encodes [0b11100110, n] (.andN n) ∧ RunsToA (.andN n) s 2 8 (IsLogic (s.a &&& n) true) ∧
    Encodes [BitVec.ofNat 8 (0b10101000 + src.code)] (.xorR src) ∧
    RunsToA (.xorR src) s 1 4 (IsLogic (s.a ^^^ getReg s src) false) ∧
    Encodes [0b10101110] .xorHl ∧ RunsToA .xorHl s 1 8 (IsLogic (s.a ^^^ memRead s (regHL s)) false) ∧
    Encodes [0b11101110, n] (.xorN n) ∧ RunsToA (.xorN n) s 2 8 (IsLogic (s.a ^^^ n) false) ∧
    Encodes [BitVec.ofNat 8 (0b10110000 + src.code)] (.orR src) ∧
    RunsToA (.orR src) s 1 4 (IsLogic (s.a ||| getReg s src) false) ∧
    Encodes [0b10110110] .orHl ∧ RunsToA .orHl s 1 8 (IsLogic (s.a ||| memRead s (regHL s)) false) ∧
    Encodes [0b11110110, n] (.orN n) ∧ RunsToA (.orN n) s 2 8 (IsLogic (s.a ||| n) false)

/-- R194 to R200: `CP` writes the flags of the subtraction and not A: Z iff equal, CY iff A is below, unsigned; `INC` and
`DEC` of a register and of the byte at HL, which do not write CY. -/
def Obligations.CompareIncDec : Prop :=
  ∀ (s : State) (r : Reg8) (n : Byte),
    let cmp (v : Byte) (f : Flags) : Prop :=
      (f.z = true ↔ s.a = v) ∧ f.n = true ∧ (f.h = true ↔ s.a.toNat % 16 < v.toNat % 16) ∧
        (f.c = true ↔ s.a.toNat < v.toNat)
    let inc (v : Byte) (x : Byte) (f : Flags) : Prop :=
      x.toNat = (v.toNat + 1) % 256 ∧ (f.z = true ↔ x = 0) ∧ f.n = false ∧ (f.h = true ↔ v.toNat % 16 = 0xF) ∧
        f.c = s.flags.c
    let dec (v : Byte) (x : Byte) (f : Flags) : Prop :=
      x.toNat = (v.toNat + 255) % 256 ∧ (f.z = true ↔ x = 0) ∧ f.n = true ∧ (f.h = true ↔ v.toNat % 16 = 0) ∧
        f.c = s.flags.c
    Encodes [BitVec.ofNat 8 (0b10111000 + r.code)] (.cpR r) ∧
    RunsToFlags (.cpR r) s 1 4 (cmp (getReg s r)) ∧
    Encodes [0b10111110] .cpHl ∧ RunsToFlags .cpHl s 1 8 (cmp (memRead s (regHL s))) ∧
    Encodes [0b11111110, n] (.cpN n) ∧ RunsToFlags (.cpN n) s 2 8 (cmp n) ∧
    Encodes [BitVec.ofNat 8 (0b00000100 + 8 * r.code)] (.incR r) ∧
    RunsToReg (.incR r) s r 1 4 (inc (getReg s r)) ∧
    Encodes [0b00110100] .incHl ∧ RunsToHl .incHl s 1 12 (inc (memRead s (regHL s))) ∧
    Encodes [BitVec.ofNat 8 (0b00000101 + 8 * r.code)] (.decR r) ∧
    RunsToReg (.decR r) s r 1 4 (dec (getReg s r)) ∧
    Encodes [0b00110101] .decHl ∧ RunsToHl .decHl s 1 12 (dec (memRead s (regHL s)))

/-- R201 to R204: `DAA`, `CPL`, `SCF`, `CCF`. -/
def Obligations.DaaCplScfCcf : Prop :=
  ∀ s : State,
    let low : Nat := if s.flags.h = true ∨ (s.flags.n = false ∧ s.a.toNat % 16 > 9) then 0x06 else 0
    let high : Nat := if s.flags.c = true ∨ (s.flags.n = false ∧ s.a.toNat > 0x99) then 0x60 else 0
    Encodes [0b00100111] .daa ∧
    RunsToA .daa s 1 4 (fun r f =>
      (s.flags.n = false → r.toNat = (s.a.toNat + low + high) % 256) ∧
      (s.flags.n = true → (r.toNat : Int) = ((s.a.toNat : Int) - low - high) % 256) ∧
      (f.z = true ↔ r = 0) ∧ f.n = s.flags.n ∧ f.h = false ∧
      (f.c = true ↔ s.flags.c = true ∨ (s.flags.n = false ∧ s.a.toNat > 0x99))) ∧
    Encodes [0b00101111] .cpl ∧
    Runs .cpl s 1 4 { s with a := ~~~s.a, flags := { z := s.flags.z, n := true, h := true, c := s.flags.c } } ∧
    Encodes [0b00110111] .scf ∧
    Runs .scf s 1 4 { s with flags := { z := s.flags.z, n := false, h := false, c := true } } ∧
    Encodes [0b00111111] .ccf ∧
    Runs .ccf s 1 4 { s with flags := { z := s.flags.z, n := false, h := false, c := !s.flags.c } }

/-- R170, R171: the two arithmetic helpers, in unbounded integers; and the half-carry is bit 4 of the exclusive or of the
operands and the sum, the document's "XOR-of-operands-and-result masking"; the half-borrow likewise, by the general law of
R22, with the borrow-in taking part. -/
def Obligations.HalfCarryXor : Prop :=
  ∀ (a b : Byte) (c : Bool),
    IsAdd8 a b c (add8 a b c).res (add8 a b c).flags ∧ IsSub8 a b c (sub8 a b c).res (sub8 a b c).flags ∧
    ((add8 a b c).flags.h = true ↔ (a ^^^ b ^^^ (add8 a b c).res).getLsbD 4 = true) ∧
    ((sub8 a b c).flags.h = true ↔ (a ^^^ b ^^^ (sub8 a b c).res).getLsbD 4 = true)

/-- R201: after `ADD` or `ADC` of two packed-BCD bytes, `DAA` gives the packed-BCD sum with CY the decimal carry. The
subtraction half is derived: the packed-BCD difference with CY the decimal borrow. -/
def Obligations.DaaDecimal : Prop :=
  ∀ (x1 x0 y1 y0 : Nat) (c : Bool), x1 ≤ 9 → x0 ≤ 9 → y1 ≤ 9 → y0 ≤ 9 →
    let x := BitVec.ofNat 8 (16 * x1 + x0)
    let y := BitVec.ofNat 8 (16 * y1 + y0)
    let sum := 10 * x1 + x0 + (10 * y1 + y0) + c.toNat
    let diff : Int := (10 * x1 + x0 : Int) - (10 * y1 + y0) - c.toNat
    let p := daa8 (add8 x y c).res (add8 x y c).flags
    let q := daa8 (sub8 x y c).res (sub8 x y c).flags
    p.res.toNat = 16 * (sum % 100 / 10) + sum % 10 ∧ (p.flags.c = true ↔ sum ≥ 100) ∧
    (q.res.toNat : Int) = 16 * (diff % 100 / 10) + diff % 10 ∧ (q.flags.c = true ↔ diff < 0)

/-! ### 16-bit arithmetic -/

/-- R210 to R213: `ADD HL,rr` keeps Z and takes its half-carry from bit 11; `INC rr`, `DEC rr` write no flag; `ADD SP,e`
takes half-carry and carry from the low byte of SP and the raw byte. -/
def Obligations.WordArithmetic : Prop :=
  ∀ (s : State) (rr : Pair) (e : Byte),
    Encodes [BitVec.ofNat 8 (0b00001001 + 16 * rr.code)] (.addHlRr rr) ∧
    Runs (.addHlRr rr) s 1 8
      { setPair s .hl (regHL s + getPair s rr) with
        flags := { z := s.flags.z
                   n := false
                   h := decide ((regHL s).toNat % 0x1000 + (getPair s rr).toNat % 0x1000 > 0xFFF)
                   c := decide ((regHL s).toNat + (getPair s rr).toNat > 0xFFFF) } } ∧
    Encodes [BitVec.ofNat 8 (0b00000011 + 16 * rr.code)] (.incRr rr) ∧
    Runs (.incRr rr) s 1 8 (setPair s rr (getPair s rr + 1)) ∧
    Encodes [BitVec.ofNat 8 (0b00001011 + 16 * rr.code)] (.decRr rr) ∧
    Runs (.decRr rr) s 1 8 (setPair s rr (getPair s rr - 1)) ∧
    Encodes [0b11101000, e] (.addSpE e) ∧
    Runs (.addSpE e) s 2 16
      { s with
        sp := s.sp + e.signExtend 16
        flags := { z := false
                   n := false
                   h := decide (s.sp.toNat % 16 + e.toNat % 16 > 0xF)
                   c := decide (s.sp.toNat % 256 + e.toNat > 0xFF) } }

/-! ### Rotates, shifts, bits -/

/-- R221 to R224: the accumulator rotates clear Z whatever the result. -/
def Obligations.AccumulatorRotates : Prop :=
  ∀ s : State,
    Encodes [0b00000111] .rlca ∧
    RunsToA .rlca s 1 4 (IsRot (2 * s.a.toNat % 256 + s.a.toNat / 128) (s.a.getLsbD 7) false) ∧
    Encodes [0b00010111] .rla ∧
    RunsToA .rla s 1 4 (IsRot (2 * s.a.toNat % 256 + s.flags.c.toNat) (s.a.getLsbD 7) false) ∧
    Encodes [0b00001111] .rrca ∧
    RunsToA .rrca s 1 4 (IsRot (s.a.toNat / 2 + 128 * (s.a.toNat % 2)) (s.a.getLsbD 0) false) ∧
    Encodes [0b00011111] .rra ∧
    RunsToA .rra s 1 4 (IsRot (s.a.toNat / 2 + 128 * s.flags.c.toNat) (s.a.getLsbD 0) false)

/-- R225 to R232: the prefixed rotates, of a register and of the byte at HL; Z from the result; `RL` and `RR` rotate
through the old carry. -/
def Obligations.PrefixedRotates : Prop :=
  ∀ (s : State) (r : Reg8),
    let v := getReg s r
    let m := memRead s (regHL s)
    Encodes [0xCB, BitVec.ofNat 8 (0b00000000 + r.code)] (.rlcR r) ∧
    RunsToReg (.rlcR r) s r 2 8 (IsRot (2 * v.toNat % 256 + v.toNat / 128) (v.getLsbD 7) true) ∧
    Encodes [0xCB, 0b00000110] .rlcHl ∧
    RunsToHl .rlcHl s 2 16 (IsRot (2 * m.toNat % 256 + m.toNat / 128) (m.getLsbD 7) true) ∧
    Encodes [0xCB, BitVec.ofNat 8 (0b00001000 + r.code)] (.rrcR r) ∧
    RunsToReg (.rrcR r) s r 2 8 (IsRot (v.toNat / 2 + 128 * (v.toNat % 2)) (v.getLsbD 0) true) ∧
    Encodes [0xCB, 0b00001110] .rrcHl ∧
    RunsToHl .rrcHl s 2 16 (IsRot (m.toNat / 2 + 128 * (m.toNat % 2)) (m.getLsbD 0) true) ∧
    Encodes [0xCB, BitVec.ofNat 8 (0b00010000 + r.code)] (.rlR r) ∧
    RunsToReg (.rlR r) s r 2 8 (IsRot (2 * v.toNat % 256 + s.flags.c.toNat) (v.getLsbD 7) true) ∧
    Encodes [0xCB, 0b00010110] .rlHl ∧
    RunsToHl .rlHl s 2 16 (IsRot (2 * m.toNat % 256 + s.flags.c.toNat) (m.getLsbD 7) true) ∧
    Encodes [0xCB, BitVec.ofNat 8 (0b00011000 + r.code)] (.rrR r) ∧
    RunsToReg (.rrR r) s r 2 8 (IsRot (v.toNat / 2 + 128 * s.flags.c.toNat) (v.getLsbD 0) true) ∧
    Encodes [0xCB, 0b00011110] .rrHl ∧
    RunsToHl .rrHl s 2 16 (IsRot (m.toNat / 2 + 128 * s.flags.c.toNat) (m.getLsbD 0) true)

/-- R233 to R240: the shifts and `SWAP`, of a register and of the byte at HL: `SLA` and `SRL` shift a 0 in, `SRA` keeps
bit 7, `SWAP` exchanges the nibbles and clears CY. -/
def Obligations.ShiftsAndSwap : Prop :=
  ∀ (s : State) (r : Reg8),
    let v := getReg s r
    let m := memRead s (regHL s)
    Encodes [0xCB, BitVec.ofNat 8 (0b00100000 + r.code)] (.slaR r) ∧
    RunsToReg (.slaR r) s r 2 8 (IsRot (2 * v.toNat % 256) (v.getLsbD 7) true) ∧
    Encodes [0xCB, 0b00100110] .slaHl ∧ RunsToHl .slaHl s 2 16 (IsRot (2 * m.toNat % 256) (m.getLsbD 7) true) ∧
    Encodes [0xCB, BitVec.ofNat 8 (0b00101000 + r.code)] (.sraR r) ∧
    RunsToReg (.sraR r) s r 2 8 (IsRot (v.toNat / 2 + 128 * (v.toNat / 128)) (v.getLsbD 0) true) ∧
    Encodes [0xCB, 0b00101110] .sraHl ∧
    RunsToHl .sraHl s 2 16 (IsRot (m.toNat / 2 + 128 * (m.toNat / 128)) (m.getLsbD 0) true) ∧
    Encodes [0xCB, BitVec.ofNat 8 (0b00110000 + r.code)] (.swapR r) ∧
    RunsToReg (.swapR r) s r 2 8 (IsRot (16 * (v.toNat % 16) + v.toNat / 16) false true) ∧
    Encodes [0xCB, 0b00110110] .swapHl ∧
    RunsToHl .swapHl s 2 16 (IsRot (16 * (m.toNat % 16) + m.toNat / 16) false true) ∧
    Encodes [0xCB, BitVec.ofNat 8 (0b00111000 + r.code)] (.srlR r) ∧
    RunsToReg (.srlR r) s r 2 8 (IsRot (v.toNat / 2) (v.getLsbD 0) true) ∧
    Encodes [0xCB, 0b00111110] .srlHl ∧ RunsToHl .srlHl s 2 16 (IsRot (m.toNat / 2) (m.getLsbD 0) true)

/-- R241 to R246: `BIT` sets Z to the complement of the bit and keeps CY; `RES` and `SET` write no flag, and the `(HL)`
forms write the byte back even where it does not change. -/
def Obligations.BitResSet : Prop :=
  ∀ (s : State) (b : BitVec 3) (r : Reg8),
    let m := memRead s (regHL s)
    let mask : Byte := 1#8 <<< b.toNat
    let bitFl (v : Byte) : Flags := { z := !v.getLsbD b.toNat, n := false, h := true, c := s.flags.c }
    Encodes [0xCB, BitVec.ofNat 8 (0b01000000 + 8 * b.toNat + r.code)] (.bitBR b r) ∧
    Runs (.bitBR b r) s 2 8 { s with flags := bitFl (getReg s r) } ∧
    Encodes [0xCB, BitVec.ofNat 8 (0b01000110 + 8 * b.toNat)] (.bitBHl b) ∧
    Runs (.bitBHl b) s 2 12 { s with flags := bitFl m } ∧
    Encodes [0xCB, BitVec.ofNat 8 (0b10000000 + 8 * b.toNat + r.code)] (.resBR b r) ∧
    Runs (.resBR b r) s 2 8 (setReg s r (getReg s r &&& ~~~mask)) ∧
    Encodes [0xCB, BitVec.ofNat 8 (0b10000110 + 8 * b.toNat)] (.resBHl b) ∧
    Runs (.resBHl b) s 2 16 (memWrite s (regHL s) (m &&& ~~~mask)) ∧
    Encodes [0xCB, BitVec.ofNat 8 (0b11000000 + 8 * b.toNat + r.code)] (.setBR b r) ∧
    Runs (.setBR b r) s 2 8 (setReg s r (getReg s r ||| mask)) ∧
    Encodes [0xCB, BitVec.ofNat 8 (0b11000110 + 8 * b.toNat)] (.setBHl b) ∧
    Runs (.setBHl b) s 2 16 (memWrite s (regHL s) (m ||| mask))

/-! ### Control transfer -/

/-- R250 to R254: the jumps, taken and not taken, with their two costs. No flag is written. -/
def Obligations.JumpForms : Prop :=
  ∀ (s : State) (cc : Cond) (nn : Word) (e : Byte),
    let holds : Prop :=
      match cc with
      | .nz => s.flags.z = false
      | .z => s.flags.z = true
      | .nc => s.flags.c = false
      | .c => s.flags.c = true
    Encodes [0b11000011, BitVec.extractLsb' 0 8 nn, BitVec.extractLsb' 8 8 nn] (.jpNn nn) ∧
    Jumps (.jpNn nn) s nn 16 s ∧
    Encodes [BitVec.ofNat 8 (0b11000010 + 8 * cc.code), BitVec.extractLsb' 0 8 nn, BitVec.extractLsb' 8 8 nn]
      (.jpCcNn cc nn) ∧
    (holds → Jumps (.jpCcNn cc nn) s nn 16 s) ∧ (¬ holds → Runs (.jpCcNn cc nn) s 3 12 s) ∧
    Encodes [0b11101001] .jpHl ∧ Jumps .jpHl s (regHL s) 4 s ∧
    Encodes [0b00011000, e] (.jrE e) ∧ Jumps (.jrE e) s (s.pc + 2 + e.signExtend 16) 12 s ∧
    Encodes [BitVec.ofNat 8 (0b00100000 + 8 * cc.code), e] (.jrCcE cc e) ∧
    (holds → Jumps (.jrCcE cc e) s (s.pc + 2 + e.signExtend 16) 12 s) ∧
    (¬ holds → Runs (.jrCcE cc e) s 2 8 s)

/-- R255, R256, R260: the calls push the address of the next instruction and go to the target; a call not taken pushes
nothing. -/
def Obligations.Calls : Prop :=
  ∀ (s : State) (cc : Cond) (nn : Word) (t : BitVec 3),
    let holds : Prop :=
      match cc with
      | .nz => s.flags.z = false
      | .z => s.flags.z = true
      | .nc => s.flags.c = false
      | .c => s.flags.c = true
    Encodes [0b11001101, BitVec.extractLsb' 0 8 nn, BitVec.extractLsb' 8 8 nn] (.callNn nn) ∧
    Jumps (.callNn nn) s nn 24 (Pushed s (s.pc + 3)) ∧
    Encodes [BitVec.ofNat 8 (0b11000100 + 8 * cc.code), BitVec.extractLsb' 0 8 nn, BitVec.extractLsb' 8 8 nn]
      (.callCcNn cc nn) ∧
    (holds → Jumps (.callCcNn cc nn) s nn 24 (Pushed s (s.pc + 3))) ∧
    (¬ holds → Runs (.callCcNn cc nn) s 3 12 s) ∧
    Encodes [BitVec.ofNat 8 (0b11000111 + 8 * t.toNat)] (.rstT t) ∧
    Jumps (.rstT t) s (BitVec.ofNat 16 (8 * t.toNat)) 16 (Pushed s (s.pc + 1))

/-- R257, R258, R259: the returns pop PC, low byte at SP and high byte at SP + 1; `RETI` also sets IME, in the state it
answers: at once, the spec's decision D5 (log 15). -/
def Obligations.Returns : Prop :=
  ∀ (s : State) (cc : Cond),
    let holds : Prop :=
      match cc with
      | .nz => s.flags.z = false
      | .z => s.flags.z = true
      | .nc => s.flags.c = false
      | .c => s.flags.c = true
    let back : Word := memRead s (s.sp + 1) ++ memRead s s.sp
    Encodes [0b11001001] .ret ∧ Jumps .ret s back 16 { s with sp := s.sp + 2 } ∧
    Encodes [BitVec.ofNat 8 (0b11000000 + 8 * cc.code)] (.retCc cc) ∧
    (holds → Jumps (.retCc cc) s back 20 { s with sp := s.sp + 2 }) ∧ (¬ holds → Runs (.retCc cc) s 1 8 s) ∧
    Encodes [0b11011001] .reti ∧ Jumps .reti s back 16 { s with sp := s.sp + 2, ime := true }

/-! ### CPU control -/

/-- R271, R273, R274: `NOP`; `EI` and `DI`, which take effect at once: the spec's decisions D4 and D11 (log 15). And `HALT`,
which waits only where IME is 1 and is a `NOP` otherwise: that clause is R272's, with the bit `halt_wait` by the spec's
decision D6 (log 15). -/
def Obligations.CpuControl : Prop :=
  ∀ s : State,
    Encodes [0b00000000] .nop ∧ Runs .nop s 1 4 s ∧
    Encodes [0b01110110] .halt ∧ (s.ime = true → Runs .halt s 1 4 { s with haltWait := true }) ∧
    (s.ime = false → Runs .halt s 1 4 s) ∧
    Encodes [0b11111011] .ei ∧ Runs .ei s 1 4 { s with ime := true } ∧
    Encodes [0b11110011] .di ∧ Runs .di s 1 4 { s with ime := false }

/-- `STOP` under the model's choice `STOP_BEHAVIOUR = nop2`, which R275 allows (log 6): PC past the two bytes, 4 ticks,
nothing else. This is the model's choice, not the spec's default. -/
def Obligations.StopAsNop2 : Prop :=
  ∀ (s : State) (n : Byte), Encodes [0b00010000, n] (.stop n) ∧ Runs (.stop n) s 2 4 s

/-- R276: the prefix with a second byte does what the instruction that byte selects does, and completes, PC past both
bytes, at 8, 12 or 16 ticks; no second byte leads to `IllegalOpcode`. -/
def Obligations.PrefixCb : Prop :=
  ∀ (s : State) (op2 : Byte) (rest : List Byte),
    decode (0xCB :: op2 :: rest) = .ok (decodeCb op2, rest) ∧
    ∃ t, exec (decodeCb op2) s = .next t ∧ exec (.prefixCb op2) s = .next t ∧ t.pc = s.pc + 2 ∧
      (t.cycles = 8 ∨ t.cycles = 12 ∨ t.cycles = 16) ∧ t.halted = s.halted ∧ t.fault = s.fault

/-- R277, R300: each undefined byte raises `IllegalOpcode`: `halted` set, the byte and PC recorded, 4 ticks, and PC left
where it is; nothing is pushed and nothing else changes. That PC stays and the 4 ticks are the spec's decisions D7 and D8
(log 15). -/
def Obligations.IllegalOpcode : Prop :=
  ∀ (s : State) (i : Instr) (op : Byte), illegalByte i = some op →
    Encodes [op] i ∧
    exec i s = .next { s with halted := true, fault := some { op := op, pc := s.pc }, cycles := 4 }

/-! ### Memory -/

/-- R63 to R69: what a read returns, case by case: the boot overlay, the fixed bank, the switchable window, external RAM,
the work RAM mirror, JOYP, DIV, and the cell itself. The clauses of the window, external RAM, the mirror and JOYP rest on
the spec's derivation in R65 and its decisions D21, D18 and D24 (log 15). -/
def Obligations.MemReadCases : Prop :=
  ∀ (s : State) (a : Word),
    let n := a.toNat
    let overlay : Prop := s.bootMapped = true ∧ n ≤ 0x00FF
    (overlay → memRead s a = s.bootRom.read Config.bootByte n) ∧
    (¬ overlay → n < 0x8000 → s.cart = none → memRead s a = 0xFF) ∧
    (∀ im, ¬ overlay → n < 0x4000 → s.cart = some im → memRead s a = cartByte im n) ∧
    (∀ im, 0x4000 ≤ n → n < 0x8000 → s.cart = some im →
      memRead s a =
        if romBanks im = 2 then cartByte im n
        else cartByte im (s.romBank.toNat % romBanks im * 0x4000 + (n - 0x4000))) ∧
    (0xA000 ≤ n → n ≤ 0xBFFF → memRead s a = if s.cart = none then 0xFF else peek s n) ∧
    (0xE000 ≤ n → n ≤ 0xFDFF → memRead s a = peek s (n - 0x2000)) ∧
    (n = 0xFF00 →
      (memRead s a).getLsbD 7 = true ∧ (memRead s a).getLsbD 6 = true ∧
      (memRead s a).getLsbD 5 = (peek s n).getLsbD 5 ∧ (memRead s a).getLsbD 4 = (peek s n).getLsbD 4 ∧
      ∀ i < 4, (memRead s a).getLsbD i =
        (((peek s n).getLsbD 4 || s.joyDpad.getLsbD i) && ((peek s n).getLsbD 5 || s.joyBtn.getLsbD i))) ∧
    (n = 0xFF04 → (memRead s a).toNat = s.div16.toNat / 256) ∧
    (0x8000 ≤ n → ¬ (0xA000 ≤ n ∧ n ≤ 0xBFFF) → ¬ (0xE000 ≤ n ∧ n ≤ 0xFDFF) → n ≠ 0xFF00 → n ≠ 0xFF04 →
      memRead s a = peek s n)

/-- R73 to R80, R83, R84: what a store does, case by case in the rule's priority order (the DMA trigger is
`OamDmaCopies`): the whole next state of each. The order, the bank select without a table, the mirror, external RAM and
STAT rest on the spec's decisions D17, D19, D18, D21 and D22 (log 15). -/
def Obligations.MemWriteCases : Prop :=
  ∀ (s : State) (a : Word) (v : Byte),
    let n := a.toNat
    let store (k : Nat) (x : Byte) : State := { s with mem := Memory.write s.mem k x }
    (n = 0xFF50 → v = 0x01 → memWrite s a v = { store n v with bootMapped := false }) ∧
    (∀ im, 0x2000 ≤ n → n ≤ 0x3FFF → s.cart = some im → romBanks im ≠ 2 →
      memWrite s a v =
        { s with
          romBank :=
            if v.toNat % 32 = 0x00 ∨ v.toNat % 32 = 0x14 then BitVec.ofNat 5 (v.toNat % 32 + 1)
            else BitVec.ofNat 5 (v.toNat % 32) }) ∧
    (0x2000 ≤ n → n ≤ 0x3FFF → (s.cart = none ∨ ∃ im, s.cart = some im ∧ romBanks im = 2) → memWrite s a v = s) ∧
    (n < 0x2000 ∨ (0x4000 ≤ n ∧ n < 0x8000) → memWrite s a v = s) ∧
    (0xE000 ≤ n → n ≤ 0xFDFF → memWrite s a v = store (n - 0x2000) v) ∧
    (n = 0xFF04 → memWrite s a v = { s with div16 := 0 }) ∧
    (n = 0xFF00 → memWrite s a v = store n ((peek s n &&& 0b11001111) ||| (v &&& 0b00110000))) ∧
    (0xA000 ≤ n → n ≤ 0xBFFF → memWrite s a v = if s.cart = none then s else store n v) ∧
    (n = 0xFF41 → memWrite s a v = store n ((v &&& 0b11111000) ||| (peek s n &&& 0b00000111))) ∧
    (0x8000 ≤ n → ¬ (0xA000 ≤ n ∧ n ≤ 0xBFFF) → ¬ (0xE000 ≤ n ∧ n ≤ 0xFDFF) → n ≠ 0xFF00 → n ≠ 0xFF04 →
      n ≠ 0xFF41 → n ≠ 0xFF46 → ¬ (n = 0xFF50 ∧ v = 0x01) → memWrite s a v = store n v)

/-- R81: a store to 0xFF46 stores the byte and copies 160 bytes, read through the CPU read path, into OAM; every other
cell and every other piece of state is unchanged. That all of it happens inside the store is the spec's decision D23
(log 15). -/
def Obligations.OamDmaCopies : Prop :=
  ∀ (s : State) (v : Byte), Memory.wf s.mem = true →
    let s0 : State := { s with mem := Memory.write s.mem 0xFF46 v }
    let t := memWrite s 0xFF46 v
    (∀ k < 160, peek t (0xFE00 + k) = memRead s0 (BitVec.ofNat 16 (256 * v.toNat + k))) ∧
    peek t 0xFF46 = v ∧
    (∀ n, n ≠ 0xFF46 → ¬ (0xFE00 ≤ n ∧ n ≤ 0xFE9F) → peek t n = peek s n) ∧
    t = { s with mem := t.mem }

/-- The frame of a store: an address it does not reach (`Touches`) reads as before, and no state but memory, the divider,
the bank and the boot overlay changes. -/
def Obligations.StoreFrame : Prop :=
  ∀ (s : State) (a : Word) (v : Byte),
    (∀ b, ¬ Touches a b → memRead (memWrite s a v) b = memRead s b) ∧
    memWrite s a v =
      { s with
        mem := (memWrite s a v).mem
        div16 := (memWrite s a v).div16
        romBank := (memWrite s a v).romBank
        bootMapped := (memWrite s a v).bootMapped }

/-- A byte stored at a cell that only stores reads back; and R67, R77: the work RAM and its mirror are one storage,
whichever of the two is written. -/
def Obligations.ReadAfterWrite : Prop :=
  ∀ (s : State) (a : Word) (v : Byte), Memory.wf s.mem = true →
    (PlainCell a → memRead (memWrite s a v) a = v) ∧
    (0xC000 ≤ a.toNat → a.toNat ≤ 0xDDFF →
      memRead (memWrite s a v) (a + 0x2000) = v ∧ memRead (memWrite s (a + 0x2000) v) a = v ∧
      memRead s (a + 0x2000) = memRead s a)

/-- The frame in memory of every instruction that stores: with the address each stores its byte at, or the two addresses of
its two bytes (`LD (nn),SP` at `nn` and `nn + 1`, the pushes and calls at SP - 1 and SP - 2), computed as its meaning does,
every address the stores do not reach reads as before. -/
def Obligations.StoringInstructionsFrame : Prop :=
  ∀ (s t : State) (src : Reg8) (qq : StackPair) (cc : Cond) (n : Byte) (nn b : Word) (r : BitVec 3) (i : Instr)
    (addr x y : Word), exec i s = .next t →
    ((i, addr) ∈ [(.ldHlR src, regHL s), (.ldHlN n, regHL s), (.ldBcA, regBC s), (.ldDeA, regDE s), (.ldNnA nn, nn),
      (.ldhCA, highPage s.c), (.ldhNA n, highPage n), (.ldHldA, regHL s), (.ldHliA, regHL s), (.incHl, regHL s),
      (.decHl, regHL s), (.rlcHl, regHL s), (.rrcHl, regHL s), (.rlHl, regHL s), (.rrHl, regHL s), (.slaHl, regHL s),
      (.sraHl, regHL s), (.swapHl, regHL s), (.srlHl, regHL s), (.resBHl r, regHL s), (.setBHl r, regHL s)] →
      ¬ Touches addr b → memRead t b = memRead s b) ∧
    ((i, x, y) ∈ [(.ldNnSp nn, nn, nn + 1), (.pushRr qq, s.sp - 1, s.sp - 2), (.pushAf, s.sp - 1, s.sp - 2),
      (.callNn nn, s.sp - 1, s.sp - 2), (.callCcNn cc nn, s.sp - 1, s.sp - 2), (.rstT r, s.sp - 1, s.sp - 2)] →
      ¬ Touches x b → ¬ Touches y b → memRead t b = memRead s b)

/-! ### The whole CPU -/

/-- R24: an instruction that does not set PC leaves it just past its own bytes, modulo 2^16 (decision D12, log 15). -/
def Obligations.PcAdvances : Prop :=
  ∀ (i : Instr) (s t : State), i.wellFormed = true → setsPc i = false → exec i s = .next t →
    t.pc = s.pc + BitVec.ofNat 16 (encode i).length

/-- R26, R27, R28: of the instructions only `EI`, `DI` and `RETI` write IME, only an undefined byte sets `halted`, and only
`HALT` sets `halt_wait`. -/
def Obligations.ModeBitWriters : Prop :=
  ∀ (i : Instr) (s t : State), exec i s = .next t →
    (t.ime ≠ s.ime → i = .ei ∨ i = .di ∨ i = .reti) ∧
    (t.halted ≠ s.halted ∨ t.fault ≠ s.fault → ∃ op, illegalByte i = some op) ∧
    (t.haltWait ≠ s.haltWait → i = .halt ∧ s.ime = true ∧ t.haltWait = true)

/-- R89, R322: no instruction reaches the hidden state of the devices (the timer's sub-counter, the PPU's counters, flags,
sprites and framebuffer, the input masks and the frame counts), the cartridge or the boot ROM: the devices act only between
instructions. The divider is unchanged or cleared (R78). The devices' registers, which stores write, are cells of memory and
not stated here. -/
def Obligations.DevicesUntouchedByCpu : Prop :=
  ∀ (i : Instr) (s t : State), exec i s = .next t →
    t.tsub = s.tsub ∧ t.lineCycles = s.lineCycles ∧ t.searched = s.searched ∧ t.drawn = s.drawn ∧
    t.visible = s.visible ∧ t.fb = s.fb ∧ t.frameDone = s.frameDone ∧ t.frameCycles = s.frameCycles ∧
    t.joyDpad = s.joyDpad ∧ t.joyBtn = s.joyBtn ∧ t.inputs = s.inputs ∧ t.cart = s.cart ∧ t.bootRom = s.bootRom ∧
    (t.div16 = s.div16 ∨ t.div16 = 0)

/-! ### Reset -/

/-- R54, R55, R56: the state after reset: the CPU's registers, every memory-mapped register, and the internal state. All
but PC and SP are values the spec chose itself: its decisions D13, D15, D16, D20 (log 15). -/
def Obligations.ResetValues : Prop :=
  let s := State.reset
  (s.a = 0x01 ∧ s.b = 0x00 ∧ s.c = 0x13 ∧ s.d = 0x00 ∧ s.e = 0xD8 ∧ s.h = 0x01 ∧ s.l = 0x4D ∧
    s.flags = { z := true, n := false, h := true, c := true } ∧ s.pc = 0x0100 ∧ s.sp = 0xFFFE ∧ s.ime = false ∧
    s.halted = false ∧ s.fault = none ∧ s.haltWait = false ∧ s.cycles = 0) ∧
  (∀ n, 0xFF00 ≤ n → n ≤ 0xFF7F → n ≠ 0xFF04 →
    (peek s n).toNat =
      match n with
      | 0xFF00 => 0xCF
      | 0xFF02 => 0x7E
      | 0xFF07 => 0xF8
      | 0xFF0F => 0xE1
      | 0xFF10 => 0x80
      | 0xFF11 => 0xBF
      | 0xFF12 => 0xF3
      | 0xFF13 => 0xFF
      | 0xFF14 => 0xBF
      | 0xFF16 => 0x3F
      | 0xFF18 => 0xFF
      | 0xFF19 => 0xBF
      | 0xFF1A => 0x7F
      | 0xFF1B => 0xFF
      | 0xFF1C => 0x9F
      | 0xFF1D => 0xFF
      | 0xFF1E => 0xBF
      | 0xFF20 => 0xFF
      | 0xFF23 => 0xBF
      | 0xFF24 => 0x77
      | 0xFF25 => 0xF3
      | 0xFF26 => 0xF1
      | 0xFF40 => 0x91
      | 0xFF41 => 0x85
      | 0xFF46 => 0xFF
      | 0xFF47 => 0xFC
      | 0xFF48 => 0xFF
      | 0xFF49 => 0xFF
      | 0xFF50 => 0x01
      | _ => 0x00) ∧
  peek s 0xFFFF = 0x00 ∧ memRead s 0xFF04 = 0xAB ∧
  (s.bootMapped = false ∧ s.romBank = 1 ∧ s.div16 = 0xABCC ∧ s.tsub = 0 ∧ s.joyDpad = 0xF ∧ s.joyBtn = 0xF ∧
    s.lineCycles = 0 ∧ s.searched = false ∧ s.drawn = false ∧ s.visible = [] ∧ s.frameDone = 0 ∧ s.frameCycles = 0) ∧
  ∀ y x, s.fb.cell y x = { shade := 0, index := 0, isSprite := false }

/-! ### The step -/

/-- When the bytes at PC decode to `i`, a step is `exec i` and then, in this order and with the ticks `i` took: the
dispatcher (not while `halted`), the timer, the PPU and the frame accounting (R99, R270, R320). -/
def Obligations.StepRunsDecoded : Prop :=
  ∀ (s t : State) (i : Instr) (rest : List Byte), s.halted = false → s.haltWait = false →
    decode [memRead s s.pc, memRead s (s.pc + 1), memRead s (s.pc + 2)] = .ok (i, rest) → exec i s = .next t →
    step s =
      .next (frameAccount t.cycles (ppuUpdate t.cycles (timerTick t.cycles
        (if t.halted = true then t else handleInterrupts t))))

/-- R270 (1), R302: while `halted` or `halt_wait` a step executes nothing, takes 4 ticks, and the devices go on; and once
`halted`, the CPU keeps all it holds and stays halted. The 4 ticks are the spec's decision D8 (log 15). -/
def Obligations.IdleSteps : Prop :=
  (∀ s : State, s.halted = true ∨ s.haltWait = true → step s = .next (afterCpu { s with cycles := 4 })) ∧
  (∀ s t : State, s.halted = true → step s = .next t →
    t.halted = true ∧ t.fault = s.fault ∧ t.pc = s.pc ∧ t.sp = s.sp ∧ t.flags = s.flags ∧ t.ime = s.ime ∧
    (∀ r, getReg t r = getReg s r) ∧ t.haltWait = s.haltWait ∧ t.cycles = 4 ∧ t.div16 = s.div16 + 4)

/-- R310, R311, R313: with IME = 1 the lowest-numbered interrupt that is pending and enabled is taken: its IF bit, IME and
`halt_wait` are cleared, PC is pushed high byte then low byte through the CPU write path, and PC goes to
`0x0040 + 8 * i`; nothing else changes. R306: none is taken while `halted`, with IME = 0, or where no bit 0 to 4 is 1 in
both IF and IE; bits 7:5 take no part. The order of the effects and the entry at no cost are the spec's decisions D3, D6
and D9 (log 15). -/
def Obligations.InterruptEntry : Prop :=
  (∀ (s : State) (i : Nat), s.halted = false → s.ime = true → i < 5 →
    (peek s 0xFF0F).getLsbD i = true → (peek s 0xFFFF).getLsbD i = true →
    (∀ j < i, ¬ ((peek s 0xFF0F).getLsbD j = true ∧ (peek s 0xFFFF).getLsbD j = true)) →
    serviceInterrupts s =
      { Pushed { s with
                 mem := Memory.write s.mem 0xFF0F (peek s 0xFF0F &&& ~~~(1#8 <<< i))
                 ime := false
                 haltWait := false } s.pc with
        pc := BitVec.ofNat 16 (0x0040 + 8 * i) }) ∧
  (∀ s : State,
    (s.halted = true ∨ s.ime = false ∨
      ∀ i < 5, ¬ ((peek s 0xFF0F).getLsbD i = true ∧ (peek s 0xFFFF).getLsbD i = true)) →
    serviceInterrupts s = s)

/-- R313, R314: where the stack lies in cells that store, `RETI` after the entry of any interrupt goes back to the
interrupted PC and SP with IME set; A, the flags and the other registers were not saved and are untouched. -/
def Obligations.InterruptRoundTrip : Prop :=
  ∀ (s u : State) (i : Nat), Memory.wf s.mem = true → PlainCell (s.sp - 1) → PlainCell (s.sp - 2) →
    exec .reti (takeInterrupt i s) = .next u →
    u.pc = s.pc ∧ u.sp = s.sp ∧ u.ime = true ∧ u.flags = s.flags ∧ ∀ r, getReg u r = getReg s r

/-- R272, R28: a CPU that waits in `HALT` keeps waiting, PC unchanged, while nothing is pending and enabled; and as soon as
an interrupt is, the step enters its routine and the wait is over. The bit is the spec's decision D6 (log 15). -/
def Obligations.HaltWakes : Prop :=
  ∀ s t : State, s.halted = false → s.haltWait = true → s.ime = true → step s = .next t →
    (pendingInterrupt s = none → t.haltWait = true ∧ t.pc = s.pc ∧ t.ime = true) ∧
    (∀ i, pendingInterrupt s = some i →
      t.haltWait = false ∧ t.pc = BitVec.ofNat 16 (0x0040 + 8 * i) ∧ t.ime = false ∧ t.sp = s.sp - 2)

/-- R8, R73: the cartridge and the boot ROM never change, nothing maps the boot ROM again, and only reset clears
`halted` (R27). -/
def Obligations.NeverUndone : Prop :=
  ∀ s t : State, step s = .next t →
    t.cart = s.cart ∧ t.bootRom = s.bootRom ∧ (s.bootMapped = false → t.bootMapped = false) ∧
    (s.halted = true → t.halted = true ∧ t.fault = s.fault)

/-! ### Devices -/

/-- R330: the timer. The divider always counts; at most one increment of TIMA a call; on overflow TIMA is reloaded from TMA
and IF bit 2 set; the sub-counter is cleared, not reduced: the document taken literally, the spec's decision D25 (log 15). -/
def Obligations.TimerTick : Prop :=
  ∀ (s : State) (n : Nat), Memory.wf s.mem = true →
    let t := timerTick n s
    let threshold : Nat :=
      if (peek s 0xFF07).toNat % 4 = 0 then 1024
      else if (peek s 0xFF07).toNat % 4 = 1 then 16
      else if (peek s 0xFF07).toNat % 4 = 2 then 64 else 256
    let enabled : Prop := (peek s 0xFF07).getLsbD 2 = true
    t = { s with div16 := s.div16 + BitVec.ofNat 16 n, tsub := t.tsub, mem := t.mem } ∧
    (¬ enabled → t.tsub = s.tsub ∧ t.mem = s.mem) ∧
    (enabled → s.tsub + n < threshold → t.tsub = s.tsub + n ∧ t.mem = s.mem) ∧
    (enabled → threshold ≤ s.tsub + n → peek s 0xFF05 ≠ 0xFF →
      t.tsub = 0 ∧ peek t 0xFF05 = peek s 0xFF05 + 1 ∧ ∀ k, k ≠ 0xFF05 → peek t k = peek s k) ∧
    (enabled → threshold ≤ s.tsub + n → peek s 0xFF05 = 0xFF →
      t.tsub = 0 ∧ peek t 0xFF05 = peek s 0xFF06 ∧ peek t 0xFF0F = (peek s 0xFF0F ||| 0b00000100) ∧
      ∀ k, k ≠ 0xFF05 → k ≠ 0xFF0F → peek t k = peek s k)

/-- R351: with the LCD off every PPU update forces LY and the mode bits to 0, resets the line counter and its two flags,
and touches nothing else. The mode bits and the two flags are the spec's decision D33 (log 15). -/
def Obligations.LcdOff : Prop :=
  ∀ (s : State) (n : Nat), Memory.wf s.mem = true → (peek s 0xFF40).getLsbD 7 = false →
    let t := ppuUpdate n s
    t = { s with lineCycles := 0, searched := false, drawn := false, mem := t.mem } ∧
    peek t 0xFF44 = 0 ∧ peek t 0xFF41 = (peek s 0xFF41 &&& 0b11111100) ∧
    ∀ k, k ≠ 0xFF44 → k ≠ 0xFF41 → peek t k = peek s k

/-- R350, R352, R355: with the LCD on the line counter takes the ticks; at 456 the excess is kept, `searched` and `drawn` are
cleared, and LY goes to the next line, 153 and above wrapping to 0 with a frame counted; IF bit 0 is set where the new line
is 144, and no other time. The phase that follows searches a new visible line at once, so after the update `searched` is 1
on it and 0 on the others. An update changes no cell but LY, STAT and IF, in IF only bits 1 and 0, and of the state outside
memory only the PPU's own. That the crossing comes before the phase and keeps the excess is the spec's decision D26, and
that the PPU goes on from whatever LY holds its decision D37 (log 15). -/
def Obligations.LineCounter : Prop :=
  (∀ s : State, (crossLine s).searched = false ∧ (crossLine s).drawn = false) ∧
  ∀ (s : State) (n : Nat), Memory.wf s.mem = true → (peek s 0xFF40).getLsbD 7 = true → s.lineCycles < 456 → n ≤ 24 →
    let t := ppuUpdate n s
    let line := (peek s 0xFF44).toNat
    t = { s with
          mem := t.mem
          lineCycles := t.lineCycles
          searched := t.searched
          drawn := t.drawn
          visible := t.visible
          fb := t.fb
          frameDone := t.frameDone } ∧
    (∀ k, k ≠ 0xFF44 → k ≠ 0xFF41 → k ≠ 0xFF0F → peek t k = peek s k) ∧
    (∀ b, 2 ≤ b → (peek t 0xFF0F).getLsbD b = (peek s 0xFF0F).getLsbD b) ∧
    (s.lineCycles + n < 456 →
      t.lineCycles = s.lineCycles + n ∧ peek t 0xFF44 = peek s 0xFF44 ∧ t.frameDone = s.frameDone) ∧
    (456 ≤ s.lineCycles + n →
      t.lineCycles = s.lineCycles + n - 456 ∧
      (peek t 0xFF44).toNat = (if line + 1 > 153 then 0 else line + 1) ∧
      t.frameDone = (if line + 1 > 153 then s.frameDone + 1 else s.frameDone) ∧
      t.drawn = false ∧ (t.searched = true ↔ (peek t 0xFF44).toNat < 144)) ∧
    (peek t 0xFF0F).getLsbD 0 =
      ((peek s 0xFF0F).getLsbD 0 || decide (456 ≤ s.lineCycles + n ∧ line + 1 = 144))

/-- R353: after every PPU update with the LCD on, the mode in STAT is the one the line and the tick give: 2 up to tick 79,
3 up to 251, 0 to the end of a visible line, 1 on the others. -/
def Obligations.ModeFollowsPosition : Prop :=
  ∀ (s : State) (n : Nat), Memory.wf s.mem = true → (peek s 0xFF40).getLsbD 7 = true →
    let t := ppuUpdate n s
    (peek t 0xFF41).toNat % 4 =
      if (peek t 0xFF44).toNat < 144 then (if t.lineCycles < 80 then 2 else if t.lineCycles < 252 then 3 else 0)
      else 1

/-- R356, R364: the LYC comparison happens only where a new line below 144 is reached: STAT bit 2 says whether it equals
LYC, and IF bit 1 is set where it does and STAT bit 6 is 1; at all other times both keep their value. STAT bits 7:3 are
never changed. That only these crossings compare is the spec's decision D28 (log 15). -/
def Obligations.LycCompare : Prop :=
  ∀ (s : State) (n : Nat), Memory.wf s.mem = true → (peek s 0xFF40).getLsbD 7 = true → s.lineCycles < 456 → n ≤ 24 →
    let t := ppuUpdate n s
    let line := (peek s 0xFF44).toNat + 1
    let compared : Prop := 456 ≤ s.lineCycles + n ∧ line < 144
    let equal : Prop := line = (peek s 0xFF45).toNat
    (compared → ((peek t 0xFF41).getLsbD 2 = true ↔ equal) ∧
      ((peek t 0xFF0F).getLsbD 1 = true ↔
        (peek s 0xFF0F).getLsbD 1 = true ∨ (equal ∧ (peek s 0xFF41).getLsbD 6 = true))) ∧
    (¬ compared → (peek t 0xFF41).getLsbD 2 = (peek s 0xFF41).getLsbD 2 ∧
      (peek t 0xFF0F).getLsbD 1 = (peek s 0xFF0F).getLsbD 1) ∧
    ∀ b, 3 ≤ b → (peek t 0xFF41).getLsbD b = (peek s 0xFF41).getLsbD b

/-- R354, R350, R353: the search leaves a line already searched as it is; else it keeps the first ten OAM entries on the
line (`IsSearch`), and only the list and the flag change. And in a PPU update with the LCD on: on a line below 144 at a
position below 252, with the line new or not yet searched, the search is made, in the registers and OAM that the update
answers with; in every other case, at 252 and above and on lines 144 to 153 among them, the list is unchanged, and
`searched` is too but for a crossing, which clears it. That it happens once for the line, and the crossing before it, are
the spec's decisions D27 and D26 (log 15). That the old list stays at a crossing, on lines 144 to 153 for as long as they
last, is the model's reading of R350 beside R33's "never persisted across scanlines" (log 17, DEDUCED). -/
def Obligations.SpriteSearch : Prop :=
  (∀ s : State, s.searched = true → oamSearch s = s) ∧
  (∀ s : State, s.searched = false →
    oamSearch s = { s with visible := (oamSearch s).visible, searched := true } ∧ IsSearch s (oamSearch s).visible) ∧
  ∀ (s : State) (n : Nat), (peek s 0xFF40).getLsbD 7 = true →
    let t := ppuUpdate n s
    let crossed : Prop := 456 ≤ s.lineCycles + n
    let due : Prop := (peek t 0xFF44).toNat < 144 ∧ t.lineCycles < 252 ∧ (crossed ∨ s.searched = false)
    (due → IsSearch t t.visible ∧ t.searched = true) ∧
    (¬ due → t.visible = s.visible ∧ (t.searched = true ↔ s.searched = true ∧ ¬ crossed))

/-- R357, R350, R353: the pixel transfer of a line not yet drawn writes the 160 cells of row LY and no other row, and a line
already drawn is left as it is. And in a PPU update with the LCD on: on a line below 144 at a position from 80 to 251, with
the line new or not yet drawn, the row is drawn, from the registers, memory and sprites that the update answers with; in
every other case, below 80, at 252 and above and on lines 144 to 153 among them, the framebuffer is unchanged, and `drawn`
is too but for a crossing, which clears it. That a row is drawn once, all at that moment, and the crossing before it, are
the spec's decisions D27 and D26 (log 15). -/
def Obligations.RowDrawnOnce : Prop :=
  (∀ s : State, s.drawn = true → pixelTransfer s = s) ∧
  (∀ s : State, Framebuffer.wf s.fb = true → s.drawn = false →
    (∀ x < 160, (pixelTransfer s).fb.cell (peek s 0xFF44).toNat x = pixel s x) ∧
    (∀ y x, y ≠ (peek s 0xFF44).toNat → (pixelTransfer s).fb.cell y x = s.fb.cell y x) ∧
    pixelTransfer s = { s with fb := (pixelTransfer s).fb, drawn := true }) ∧
  ∀ (s : State) (n : Nat), Framebuffer.wf s.fb = true → (peek s 0xFF40).getLsbD 7 = true →
    let t := ppuUpdate n s
    let line := (peek t 0xFF44).toNat
    let crossed : Prop := 456 ≤ s.lineCycles + n
    let due : Prop := line < 144 ∧ 80 ≤ t.lineCycles ∧ t.lineCycles < 252 ∧ (crossed ∨ s.drawn = false)
    (due → (∀ x < 160, t.fb.cell line x = pixel t x) ∧ (∀ y x, y ≠ line → t.fb.cell y x = s.fb.cell y x) ∧
      t.drawn = true) ∧
    (¬ due → t.fb = s.fb ∧ (t.drawn = true ↔ s.drawn = true ∧ ¬ crossed))

/-- R358, R359, R360: the cell under the sprites: the window where it covers the column, else the background, else a blank
cell; the tile, its two bit planes and the palette entry. The blank cell and the window's independence of LCDC bit 0 are
the spec's decision D32 (log 15). -/
def Obligations.BackgroundAndWindow : Prop :=
  ∀ (s : State) (x : Nat), x < 160 →
    let reg (a : Nat) : Nat := (peek s a).toNat
    let lcdc (i : Nat) : Prop := (peek s 0xFF40).getLsbD i = true
    let mapped (base px py : Nat) (cell : FbCell) : Prop :=
      ∀ t : Byte, t = peek s (base + 32 * (py / 8) + px / 8) →
      ∀ row : Nat,
        (lcdc 4 → row = 0x8000 + 16 * t.toNat + 2 * (py % 8)) →
        (¬ lcdc 4 → t.toNat < 128 → row = 0x9000 + 16 * t.toNat + 2 * (py % 8)) →
        (¬ lcdc 4 → 128 ≤ t.toNat → row = 0x8000 + 16 * t.toNat + 2 * (py % 8)) →
        cell.index.toNat =
          2 * ((peek s (row + 1)).getLsbD (7 - px % 8)).toNat + ((peek s row).getLsbD (7 - px % 8)).toNat ∧
        cell.shade.toNat = reg 0xFF47 / 4 ^ cell.index.toNat % 4 ∧ cell.isSprite = false
    let window : Prop := lcdc 5 ∧ reg 0xFF4A ≤ reg 0xFF44 ∧ reg 0xFF4B ≤ x + 7
    (window → ∀ base, (lcdc 6 → base = 0x9C00) → (¬ lcdc 6 → base = 0x9800) →
      mapped base (x + 7 - reg 0xFF4B) (reg 0xFF44 - reg 0xFF4A) (baseCell s x)) ∧
    (¬ window → lcdc 0 → ∀ base, (lcdc 3 → base = 0x9C00) → (¬ lcdc 3 → base = 0x9800) →
      mapped base ((x + reg 0xFF43) % 256) ((reg 0xFF44 + reg 0xFF42) % 256) (baseCell s x)) ∧
    (¬ window → ¬ lcdc 0 → baseCell s x = { shade := 0, index := 0, isSprite := false })

/-- R361: the sprite multiplexer: with sprites off, or every sprite transparent at the column, the cell under them shows;
else the first opaque sprite in OAM order decides, and is hidden only where its flag 7 is set and the cell under it is not
index 0. A transparent pixel never shows. The colour index comes from the sprite's tile, with the flips of flags 5 and 6
and, in 8 × 16 mode, the tile pair; outside its eight columns a sprite is transparent. The order by OAM alone is the spec's decision D31 (log 15); a row
outside the sprite is log 12 and not stated here. -/
def Obligations.SpriteMultiplexer : Prop :=
  ∀ (s : State) (x : Nat),
    ((peek s 0xFF40).getLsbD 1 = false → pixel s x = baseCell s x) ∧
    ((∀ sp ∈ s.visible, spriteIndex s x sp = 0) → pixel s x = baseCell s x) ∧
    (∀ (before after : List Sprite) (sp : Sprite), (peek s 0xFF40).getLsbD 1 = true →
      s.visible = before ++ sp :: after → (∀ q ∈ before, spriteIndex s x q = 0) → spriteIndex s x sp ≠ 0 →
      let palette := peek s (if sp.flags.getLsbD 4 = true then 0xFF49 else 0xFF48)
      (sp.flags.getLsbD 7 = true ∧ (baseCell s x).index ≠ 0 → pixel s x = baseCell s x) ∧
      (¬ (sp.flags.getLsbD 7 = true ∧ (baseCell s x).index ≠ 0) →
        (pixel s x).index = spriteIndex s x sp ∧ (pixel s x).isSprite = true ∧
        (pixel s x).shade.toNat = palette.toNat / 4 ^ (spriteIndex s x sp).toNat % 4)) ∧
    ((pixel s x).isSprite = true → (pixel s x).index ≠ 0) ∧
    (∀ sp : Sprite, ¬ (sp.x.toNat ≤ x + 8 ∧ x < sp.x.toNat) → spriteIndex s x sp = 0) ∧
    (∀ (sp : Sprite) (height col row : Nat), height = (if (peek s 0xFF40).getLsbD 2 = true then 16 else 8) →
      sp.x.toNat + col = x + 8 → col < 8 → sp.y.toNat + row = (peek s 0xFF44).toNat + 16 → row < height →
      let c := if sp.flags.getLsbD 5 = true then 7 - col else col
      let r := if sp.flags.getLsbD 6 = true then height - 1 - row else row
      let tile := if height = 16 then 2 * (sp.tile.toNat / 2) + r / 8 else sp.tile.toNat
      (spriteIndex s x sp).toNat =
        2 * ((peek s (0x8000 + 16 * tile + 2 * (r % 8) + 1)).getLsbD (7 - c)).toNat +
          ((peek s (0x8000 + 16 * tile + 2 * (r % 8))).getLsbD (7 - c)).toNat)

/-- R321, R340: the frame accounting, and what the host may do at a frame boundary and only there: a `HandleInput` call sets
IF bit 4 where a bit that was 1 is now 0, and takes the new masks. The boundary with its carried excess and the request are
the spec's decisions D34 and D24 (log 15); the list of calls is the model's own (log 10). -/
def Obligations.FrameBoundary : Prop :=
  ∀ (s : State) (n : Nat), Memory.wf s.mem = true →
    let t := frameAccount n s
    (s.frameCycles + n < 70224 → t = { s with frameCycles := s.frameCycles + n }) ∧
    (70224 ≤ s.frameCycles + n → t.frameCycles = s.frameCycles + n - 70224 ∧
      (s.inputs = [] → t = { s with frameCycles := t.frameCycles }) ∧
      (∀ rest, s.inputs = none :: rest → t = { s with frameCycles := t.frameCycles, inputs := rest }) ∧
      (∀ i rest, s.inputs = some i :: rest →
        t = { s with frameCycles := t.frameCycles, inputs := rest, joyDpad := i.dpad, joyBtn := i.btn, mem := t.mem } ∧
        (∀ k, k ≠ 0xFF0F → peek t k = peek s k) ∧
        ((∃ b < 4, s.joyDpad.getLsbD b = true ∧ i.dpad.getLsbD b = false ∨
            s.joyBtn.getLsbD b = true ∧ i.btn.getLsbD b = false) →
          peek t 0xFF0F = (peek s 0xFF0F ||| 0b00010000)) ∧
        ((∀ b < 4, ¬ (s.joyDpad.getLsbD b = true ∧ i.dpad.getLsbD b = false) ∧
            ¬ (s.joyBtn.getLsbD b = true ∧ i.btn.getLsbD b = false)) →
          peek t 0xFF0F = peek s 0xFF0F)))

/-! ### The invariant -/

/-- The state after reset is good (`Inv`). -/
def Obligations.ResetIsGood : Prop := Inv State.reset

/-- Every step from a good state answers a next state, and that state is good: memory and framebuffer canonical, only
writable cells listed, the counters in their ranges, at most 10 sprites, the fault recorded exactly when halted. That there
is always a next state, with no refusal and no fault, rests on the model's choice `STOP_BEHAVIOUR = nop2` (log 6; the spec
itself takes `refuse`) and on its reading of `IllegalOpcode` as a next state (log 7). -/
def Obligations.StepKeepsGood : Prop := ∀ s : State, Inv s → ∃ t, step s = .next t ∧ Inv t
end

