-- ==== Sys2Proof/Laws/Alu.lean ====
section
/-! SUPPORT. The result and flag computations against the laws of the spec, once each. -/

namespace Sys2Proof.Machine

/-! ### Addition, subtraction, logic -/

theorem add8_spec (a b : Byte) (c : Bool) : IsAdd8 a b c (add8 a b c).res (add8 a b c).flags := by
  have : c.toNat ≤ 1 := by cases c <;> decide
  refine ⟨?_, ?_, rfl, ?_, ?_⟩
  · simp [add8]
  · simp [add8, ← BitVec.toNat_inj]
  · simp [add8, loNibble]
  · simp [add8]

theorem sub8_spec (a b : Byte) (c : Bool) : IsSub8 a b c (sub8 a b c).res (sub8 a b c).flags := by
  have hn : ∀ x : Int, ((BitVec.ofInt 8 x).toNat : Int) = x % 256 := by
    intro x; simp [BitVec.toNat_ofInt]; omega
  refine ⟨?_, ?_, rfl, ?_, ?_⟩
  · exact hn _
  · simp only [sub8, decide_eq_true_eq]
    rw [← BitVec.toNat_inj, ← hn]
    simp
  · exact decide_eq_true_iff
  · exact decide_eq_true_iff

theorem and8_spec (a b : Byte) : IsLogic (a &&& b) true (and8 a b).res (and8 a b).flags := by simp [IsLogic, and8]

theorem xor8_spec (a b : Byte) : IsLogic (a ^^^ b) false (xor8 a b).res (xor8 a b).flags := by simp [IsLogic, xor8]

theorem or8_spec (a b : Byte) : IsLogic (a ||| b) false (or8 a b).res (or8 a b).flags := by simp [IsLogic, or8]

/-- The flags of a comparison (R194). -/
theorem cmp_spec (a v : Byte) :
    ((sub8 a v false).flags.z = true ↔ a = v) ∧ (sub8 a v false).flags.n = true ∧
      ((sub8 a v false).flags.h = true ↔ a.toNat % 16 < v.toNat % 16) ∧
      ((sub8 a v false).flags.c = true ↔ a.toNat < v.toNat) := by
  obtain ⟨h1, h2, h3, h4, h5⟩ := sub8_spec a v false
  have := a.isLt
  have := v.isLt
  refine ⟨?_, h3, by simpa using h4, by simpa using h5⟩
  rw [h2, ← BitVec.toNat_inj]
  simp only [Bool.toNat_false]
  omega

theorem inc8_spec (v : Byte) (f : Flags) :
    (inc8 v f).res.toNat = (v.toNat + 1) % 256 ∧ ((inc8 v f).flags.z = true ↔ (inc8 v f).res = 0) ∧
      (inc8 v f).flags.n = false ∧ ((inc8 v f).flags.h = true ↔ v.toNat % 16 = 0xF) ∧
      (inc8 v f).flags.c = f.c :=
  ⟨by simp [inc8], by simp [inc8], rfl, decide_eq_true_iff, rfl⟩

theorem dec8_spec (v : Byte) (f : Flags) :
    (dec8 v f).res.toNat = (v.toNat + 255) % 256 ∧ ((dec8 v f).flags.z = true ↔ (dec8 v f).res = 0) ∧
      (dec8 v f).flags.n = true ∧ ((dec8 v f).flags.h = true ↔ v.toNat % 16 = 0) ∧
      (dec8 v f).flags.c = f.c := by
  refine ⟨?_, by simp [dec8], rfl, decide_eq_true_iff, rfl⟩
  have := v.isLt
  simp only [dec8, BitVec.toNat_ofInt]
  omega

/-! ### DAA -/

theorem daa_or (p q : Prop) [Decidable p] [Decidable q] :
    ((if p then 0x06 else 0) ||| (if q then 0x60 else 0) : Nat) = (if p then 0x06 else 0) + (if q then 0x60 else 0) := by
  split <;> split <;> rfl

/-- The addition path of `DAA` (R201). -/
theorem daa8_add {a : Byte} {f : Flags} (hn : f.n = false) :
    (daa8 a f).res.toNat =
      (a.toNat + (if f.h = true ∨ a.toNat % 16 > 9 then 0x06 else 0) +
        (if f.c = true ∨ a.toNat > 0x99 then 0x60 else 0)) % 256 := by
  simp [daa8, hn, daaAdjust, loNibble, daa_or]
  omega

/-- The subtraction path of `DAA` (R201). -/
theorem daa8_sub {a : Byte} {f : Flags} (hn : f.n = true) :
    ((daa8 a f).res.toNat : Int) =
      ((a.toNat : Int) - (if f.h = true then 0x06 else 0) - (if f.c = true then 0x60 else 0)) % 256 := by
  have h : daaAdjust a f = (if f.h = true then 0x06 else 0) + (if f.c = true then 0x60 else 0) := by
    simp [daaAdjust, hn, daa_or]
  simp only [daa8, hn, h, Bool.true_eq_false, if_false, BitVec.toNat_ofInt]
  split <;> (split <;> omega)

theorem daa8_carry (a : Byte) (f : Flags) :
    (daa8 a f).flags.c = true ↔ f.c = true ∨ (f.n = false ∧ a.toNat > 0x99) := by
  simp [daa8]
  cases f.n <;> simp <;> tauto

/-- Decimal addition in packed BCD, tens `w` and units `u`, as `DAA` adjusts it: all 380 cases. -/
theorem daa_table_add : ∀ w < 19, ∀ u < 20,
    ((16 * w + u) % 256 + (if u > 15 ∨ (16 * w + u) % 256 % 16 > 9 then 6 else 0) +
        (if 16 * w + u > 255 ∨ (16 * w + u) % 256 > 0x99 then 0x60 else 0)) % 256 =
      16 * ((10 * w + u) % 100 / 10) + (10 * w + u) % 10 ∧
    ((16 * w + u > 255 ∨ (16 * w + u) % 256 > 0x99) ↔ 10 * w + u ≥ 100) := by
  decide

/-- Decimal subtraction in packed BCD, tens `p - 9` and units `q - 10`, as `DAA` adjusts it: all 380 cases. -/
theorem daa_table_sub : ∀ p : Nat, p < 19 → ∀ q : Nat, q < 20 →
    ((16 * ((p : Int) - 9) + ((q : Int) - 10)) % 256 - (if q < 10 then 6 else 0) -
        (if 16 * ((p : Int) - 9) + ((q : Int) - 10) < 0 then 0x60 else 0)) % 256 =
      16 * ((10 * ((p : Int) - 9) + ((q : Int) - 10)) % 100 / 10) + (10 * ((p : Int) - 9) + ((q : Int) - 10)) % 10 ∧
    (16 * ((p : Int) - 9) + ((q : Int) - 10) < 0 ↔ 10 * ((p : Int) - 9) + ((q : Int) - 10) < 0) := by
  decide

/-! ### Rotates -/

theorem rot_rlc (v : Byte) (c : Bool) : (rot .rlc v c).1.toNat = 2 * v.toNat % 256 + v.toNat / 128 ∧ (rot .rlc v c).2 = v.getLsbD 7 := by
  cases c <;> (revert v; decide)

theorem rot_rrc (v : Byte) (c : Bool) : (rot .rrc v c).1.toNat = v.toNat / 2 + 128 * (v.toNat % 2) ∧ (rot .rrc v c).2 = v.getLsbD 0 := by
  cases c <;> (revert v; decide)

theorem rot_rl (v : Byte) (c : Bool) : (rot .rl v c).1.toNat = 2 * v.toNat % 256 + c.toNat ∧ (rot .rl v c).2 = v.getLsbD 7 := by
  revert v c; decide

theorem rot_rr (v : Byte) (c : Bool) : (rot .rr v c).1.toNat = v.toNat / 2 + 128 * c.toNat ∧ (rot .rr v c).2 = v.getLsbD 0 := by
  revert v c; decide

theorem rot_sla (v : Byte) (c : Bool) : (rot .sla v c).1.toNat = 2 * v.toNat % 256 ∧ (rot .sla v c).2 = v.getLsbD 7 := by
  cases c <;> (revert v; decide)

theorem rot_sra (v : Byte) (c : Bool) : (rot .sra v c).1.toNat = v.toNat / 2 + 128 * (v.toNat / 128) ∧ (rot .sra v c).2 = v.getLsbD 0 := by
  cases c <;> (revert v; decide)

theorem rot_swap (v : Byte) (c : Bool) : (rot .swap v c).1.toNat = 16 * (v.toNat % 16) + v.toNat / 16 ∧ (rot .swap v c).2 = false := by
  cases c <;> (revert v; decide)

theorem rot_srl (v : Byte) (c : Bool) : (rot .srl v c).1.toNat = v.toNat / 2 ∧ (rot .srl v c).2 = v.getLsbD 0 := by
  cases c <;> (revert v; decide)

/-- A prefixed rotate, from what `rot` gives. -/
theorem rotOut_spec {op : RotOp} {v : Byte} {c out : Bool} {x : Nat} (h : (rot op v c).1.toNat = x ∧ (rot op v c).2 = out) :
    IsRot x out true (rotOut op v c).res (rotOut op v c).flags := by
  refine ⟨h.1, ?_, rfl, rfl, h.2⟩
  rw [← h.1]
  simp [rotOut, ← BitVec.toNat_inj]

/-- An accumulator rotate, from what `rot` gives. -/
theorem rotAOut_spec {op : RotOp} {v : Byte} {c out : Bool} {x : Nat} (h : (rot op v c).1.toNat = x ∧ (rot op v c).2 = out) :
    IsRot x out false (rotAOut op v c).res (rotAOut op v c).flags :=
  ⟨h.1, by simp [rotAOut], rfl, rfl, h.2⟩

/-! ### Packed flags -/

/-- The byte `F` (R23). -/
theorem packFlags_eq (f : Flags) :
    packFlags f =
      BitVec.ofNat 8 (128 * f.z.toNat + 64 * f.n.toNat + 32 * f.h.toNat + 16 * f.c.toNat) := by
  obtain ⟨z, n, h, c⟩ := f
  cases z <;> cases n <;> cases h <;> cases c <;> decide

end Sys2Proof.Machine
end

