-- ==== Sys2Proof/Laws/Bits.lean ====
section
/-! SUPPORT. The bits of the bytes that the model concatenates, masks and sets. -/

namespace Sys2Proof.Machine

/-- The bits of `{x, y, z}` of 2, 2 and 4 bits. -/
theorem getLsbD_cat224 (x y : BitVec 2) (z : BitVec 4) (i : Nat) :
    BitVec.getLsbD (w := 8) (x ++ y ++ z) i =
      if i < 4 then z.getLsbD i else if i < 6 then y.getLsbD (i - 4) else x.getLsbD (i - 6) := by
  change BitVec.getLsbD (w := 2 + 2 + 4) (x ++ y ++ z) i = _
  rw [BitVec.getLsbD_append]
  rw [BitVec.getLsbD_append]
  by_cases h4 : i < 4
  · simp [h4]
  · by_cases h6 : i < 6
    · have : i - 4 < 2 := by omega
      simp [h4, h6, this]
    · have h2 : ¬ i - 4 < 2 := by omega
      have h7 : i - 4 - 2 = i - 6 := by omega
      simp [h4, h6, h2, h7]

/-- The bits of `{x, y}` of 5 and 3 bits. -/
theorem getLsbD_cat53 (x : BitVec 5) (y : BitVec 3) (i : Nat) :
    BitVec.getLsbD (w := 8) (x ++ y) i = if i < 3 then y.getLsbD i else x.getLsbD (i - 3) := by
  change BitVec.getLsbD (w := 5 + 3) (x ++ y) i = _
  rw [BitVec.getLsbD_append]

/-- The bits of `{x, y}` of 6 and 2 bits. -/
theorem getLsbD_cat62 (x : BitVec 6) (y : BitVec 2) (i : Nat) :
    BitVec.getLsbD (w := 8) (x ++ y) i = if i < 2 then y.getLsbD i else x.getLsbD (i - 2) := by
  change BitVec.getLsbD (w := 6 + 2) (x ++ y) i = _
  rw [BitVec.getLsbD_append]

theorem getLsbD_putLow2 (b : Byte) (m : BitVec 2) (i : Nat) :
    (putLow2 b m).getLsbD i = if i < 2 then m.getLsbD i else b.getLsbD i := by
  unfold putLow2
  rw [getLsbD_cat62]
  split
  · rfl
  · rename_i h
    rw [BitVec.getLsbD_extractLsb']
    have h2 : 2 + (i - 2) = i := by omega
    rw [h2]
    by_cases h8 : i < 8
    · have : i - 2 < 6 := by omega
      simp [this]
    · have : ¬ i - 2 < 6 := by omega
      simp [this, BitVec.getLsbD_of_ge b i (by omega)]

theorem getLsbD_one_shift (i j : Nat) (hj : j < 8) : (1#8 <<< i).getLsbD j = decide (j = i) := by
  rw [BitVec.getLsbD_shiftLeft]
  by_cases h : j = i
  · subst h; simp [hj]
  · by_cases hlt : j < i
    · simp [hlt, h]
    · have : j - i ≠ 0 := by omega
      simp [hj, hlt, h, this]

theorem getLsbD_setBit (b : Byte) (i j : Nat) (hj : j < 8) :
    (setBit b i).getLsbD j = (b.getLsbD j || decide (j = i)) := by
  unfold setBit
  rw [BitVec.getLsbD_or, getLsbD_one_shift i j hj]

theorem getLsbD_clearBit (b : Byte) (i j : Nat) (hj : j < 8) :
    (clearBit b i).getLsbD j = (b.getLsbD j && !decide (j = i)) := by
  unfold clearBit
  rw [BitVec.getLsbD_and, BitVec.getLsbD_not, getLsbD_one_shift i j hj]
  simp [hj]

/-- The two low bits as a number. -/
theorem putLow2_toNat_mod (b : Byte) (m : BitVec 2) : (putLow2 b m).toNat % 4 = m.toNat := by
  have h : (putLow2 b m).toNat = (BitVec.extractLsb' 2 6 b).toNat <<< 2 ||| m.toNat := BitVec.toNat_append _ _
  rw [h, ← Nat.shiftLeft_add_eq_or_of_lt m.isLt, Nat.shiftLeft_eq]
  have := m.isLt
  omega

end Sys2Proof.Machine
end

