-- ==== Sys2Proof/Laws/Sparse.lean ====
section
/-! SUPPORT. The laws of data by number: a read after a write, and the canonical form kept. -/

namespace Sys2Proof.Machine

section
variable {α : Type} [DecidableEq α] {dflt : Nat → α} {bound : Nat}

theorem sparseGet_cons_other {m : List (Nat × α)} {k j : Nat} {v : α} (h : j ≠ k) :
    sparseGet dflt (sparseCons dflt k v m) j = sparseGet dflt m j := by
  unfold sparseCons
  split
  · rfl
  · simp [sparseGet, Ne.symm h]

/-- A write leaves every other key alone. -/
theorem sparseGet_set_other {m : List (Nat × α)} {k j : Nat} {v : α} (h : j ≠ k) :
    sparseGet dflt (sparseSet dflt m k v) j = sparseGet dflt m j := by
  induction m with
  | nil => exact sparseGet_cons_other h
  | cons p m ih =>
    obtain ⟨i, x⟩ := p
    simp only [sparseSet]
    split
    · simp only [sparseGet, ih]
    · split
      · rename_i hik
        rw [sparseGet_cons_other h]
        simp [sparseGet, hik, Ne.symm h]
      · exact sparseGet_cons_other h

/-- A key below every listed key reads as an unlisted one. -/
theorem sparseGet_below {m : List (Nat × α)} {lo k : Nat} (h : sparseWf dflt bound lo m = true) (hk : k < lo) :
    sparseGet dflt m k = dflt k := by
  induction m generalizing lo with
  | nil => rfl
  | cons p m ih =>
    obtain ⟨i, x⟩ := p
    simp only [sparseWf, Bool.and_eq_true, decide_eq_true_eq] at h
    have hne : i ≠ k := by omega
    simp only [sparseGet, if_neg hne]
    exact ih h.2 (by omega)

theorem sparseGet_cons_same {m : List (Nat × α)} {k : Nat} {v : α} (h : sparseGet dflt m k = dflt k) :
    sparseGet dflt (sparseCons dflt k v m) k = v := by
  unfold sparseCons
  split
  · rename_i hv
    rw [h, hv]
  · simp [sparseGet]

/-- A read after a write to the same key gives the value written. -/
theorem sparseGet_set_same {m : List (Nat × α)} {lo k : Nat} {v : α} (h : sparseWf dflt bound lo m = true) :
    sparseGet dflt (sparseSet dflt m k v) k = v := by
  induction m generalizing lo with
  | nil => exact sparseGet_cons_same rfl
  | cons p m ih =>
    obtain ⟨i, x⟩ := p
    simp only [sparseWf, Bool.and_eq_true, decide_eq_true_eq] at h
    simp only [sparseSet]
    split
    · rename_i hik
      have hne : i ≠ k := by omega
      simp only [sparseGet, if_neg hne]
      exact ih h.2
    · split
      · exact sparseGet_cons_same (sparseGet_below h.2 (by omega))
      · apply sparseGet_cons_same
        have hne : i ≠ k := by omega
        simp only [sparseGet, if_neg hne]
        exact sparseGet_below h.2 (by omega)

/-- The canonical form from a lower start. -/
theorem sparseWf_mono {m : List (Nat × α)} {lo lo' : Nat} (h : sparseWf dflt bound lo m = true) (hl : lo' ≤ lo) :
    sparseWf dflt bound lo' m = true := by
  cases m with
  | nil => rfl
  | cons p m =>
    obtain ⟨i, x⟩ := p
    simp only [sparseWf, Bool.and_eq_true, decide_eq_true_eq] at h ⊢
    exact ⟨⟨⟨by omega, h.1.1.2⟩, h.1.2⟩, h.2⟩

theorem sparseWf_sparseCons {m : List (Nat × α)} {lo k : Nat} {v : α} (h : sparseWf dflt bound (k + 1) m = true)
    (hlo : lo ≤ k) (hk : k < bound) : sparseWf dflt bound lo (sparseCons dflt k v m) = true := by
  unfold sparseCons
  split
  · exact sparseWf_mono h (by omega)
  · rename_i hv
    simp [sparseWf, hlo, hk, hv, h]

/-- A write keeps the canonical form. -/
theorem sparseWf_set {m : List (Nat × α)} {lo k : Nat} {v : α} (h : sparseWf dflt bound lo m = true)
    (hlo : lo ≤ k) (hk : k < bound) : sparseWf dflt bound lo (sparseSet dflt m k v) = true := by
  induction m generalizing lo with
  | nil => exact sparseWf_sparseCons rfl hlo hk
  | cons p m ih =>
    obtain ⟨i, x⟩ := p
    simp only [sparseWf, Bool.and_eq_true, decide_eq_true_eq] at h
    simp only [sparseSet]
    split
    · simp only [sparseWf, Bool.and_eq_true, decide_eq_true_eq]
      exact ⟨h.1, ih h.2 (by omega)⟩
    · split
      · rename_i hik
        exact sparseWf_sparseCons (hik ▸ h.2) hlo hk
      · refine sparseWf_sparseCons ?_ hlo hk
        simp only [sparseWf, Bool.and_eq_true, decide_eq_true_eq]
        exact ⟨⟨⟨by omega, h.1.1.2⟩, h.1.2⟩, h.2⟩

/-- What holds of the written entry and of every listed entry holds of every entry listed after a write. -/
theorem sparseSet_all {m : List (Nat × α)} {k : Nat} {v : α} {P : Nat × α → Bool} (h : m.all P = true)
    (hk : P (k, v) = true) : (sparseSet dflt m k v).all P = true := by
  have hcons : ∀ m' : List (Nat × α), m'.all P = true → (sparseCons dflt k v m').all P = true := by
    intro m' h'
    unfold sparseCons
    split
    · exact h'
    · rw [List.all_cons, hk, h']; rfl
  induction m with
  | nil => exact hcons [] rfl
  | cons p m ih =>
    obtain ⟨i, x⟩ := p
    rw [List.all_cons, Bool.and_eq_true] at h
    simp only [sparseSet]
    split
    · rw [List.all_cons, h.1, ih h.2]; rfl
    · split
      · exact hcons m h.2
      · exact hcons _ (by rw [List.all_cons, h.1, h.2]; rfl)

end

/-! ### Memory -/

theorem Memory.read_write_same {m : Memory} {n : Nat} {v : Byte} (h : Memory.wf m = true) :
    Memory.read (Memory.write m n v) n = v := sparseGet_set_same h

theorem Memory.read_write_other {m : Memory} {n k : Nat} {v : Byte} (h : k ≠ n) :
    Memory.read (Memory.write m n v) k = Memory.read m k := sparseGet_set_other h

theorem Memory.write_wf {m : Memory} {n : Nat} {v : Byte} (h : Memory.wf m = true) (hn : n < 0x10000) :
    Memory.wf (Memory.write m n v) = true := sparseWf_set h (Nat.zero_le n) hn

/-! ### The framebuffer -/

theorem Framebuffer.row_setRow_same {fb : Framebuffer} {y : Nat} {r : List FbCell} (h : Framebuffer.wf fb = true) :
    (fb.setRow y r).row y = r := by
  simp only [Framebuffer.wf, Bool.and_eq_true] at h
  exact sparseGet_set_same h.1

theorem Framebuffer.row_setRow_other {fb : Framebuffer} {y k : Nat} {r : List FbCell} (h : k ≠ y) :
    (fb.setRow y r).row k = fb.row k := sparseGet_set_other h

theorem Framebuffer.setRow_wf {fb : Framebuffer} {y : Nat} {r : List FbCell} (h : Framebuffer.wf fb = true)
    (hy : y < lcdHeight) (hr : r.length = lcdWidth) : Framebuffer.wf (fb.setRow y r) = true := by
  simp only [Framebuffer.wf, Bool.and_eq_true] at h ⊢
  exact ⟨sparseWf_set h.1 (Nat.zero_le y) hy, sparseSet_all h.2 (by simpa using hr)⟩

/-! ### Images -/

theorem RomImage.place_wf {im : RomImage} {off : Nat} {v : Byte} (h : im.wf = true) : (im.place off v).wf = true := by
  have hmono : ∀ (m : List Host.Cell) (lo b b' : Nat), b ≤ b' → sparseWf (fun _ => (0x00 : Byte)) b lo m = true →
      sparseWf (fun _ => (0x00 : Byte)) b' lo m = true := by
    intro m
    induction m with
    | nil => intros; rfl
    | cons p m ih =>
      obtain ⟨i, x⟩ := p
      intro lo b b' hb hm
      simp only [sparseWf, Bool.and_eq_true, decide_eq_true_eq] at hm ⊢
      exact ⟨⟨⟨hm.1.1.1, by omega⟩, hm.1.2⟩, ih _ b b' hb hm.2⟩
  unfold RomImage.wf RomImage.place
  exact sparseWf_set (hmono _ _ _ _ (Nat.le_max_left _ _) h) (Nat.zero_le _)
    (Nat.lt_of_lt_of_le (Nat.lt_succ_self _) (Nat.le_max_right _ _))

theorem RomImage.read_place_same {free : Nat → Byte} {im : RomImage} {off : Nat} {v : Byte} (h : im.wf = true) :
    (im.place off v).read free off = v := by
  unfold RomImage.read RomImage.place
  have : off < max im.length (off + 1) := Nat.lt_of_lt_of_le (Nat.lt_succ_self _) (Nat.le_max_right _ _)
  rw [if_pos this]
  exact sparseGet_set_same h

end Sys2Proof.Machine
end

