-- ==== Sys2Proof/Laws/State.lean ====
section
/-! SUPPORT. One lemma per field per named update, so that no proof unfolds a record update. -/

namespace Sys2Proof.Machine

/-! ### `setReg` -/

section
variable (s : State) (r : Reg8) (v : Byte)

@[simp] theorem setReg_flags : (setReg s r v).flags = s.flags := by cases r <;> rfl
@[simp] theorem setReg_pc : (setReg s r v).pc = s.pc := by cases r <;> rfl
@[simp] theorem setReg_sp : (setReg s r v).sp = s.sp := by cases r <;> rfl
@[simp] theorem setReg_ime : (setReg s r v).ime = s.ime := by cases r <;> rfl
@[simp] theorem setReg_halted : (setReg s r v).halted = s.halted := by cases r <;> rfl
@[simp] theorem setReg_fault : (setReg s r v).fault = s.fault := by cases r <;> rfl
@[simp] theorem setReg_haltWait : (setReg s r v).haltWait = s.haltWait := by cases r <;> rfl
@[simp] theorem setReg_cycles : (setReg s r v).cycles = s.cycles := by cases r <;> rfl
@[simp] theorem setReg_mem : (setReg s r v).mem = s.mem := by cases r <;> rfl
@[simp] theorem setReg_cart : (setReg s r v).cart = s.cart := by cases r <;> rfl
@[simp] theorem setReg_bootRom : (setReg s r v).bootRom = s.bootRom := by cases r <;> rfl
@[simp] theorem setReg_romBank : (setReg s r v).romBank = s.romBank := by cases r <;> rfl
@[simp] theorem setReg_bootMapped : (setReg s r v).bootMapped = s.bootMapped := by cases r <;> rfl
@[simp] theorem setReg_div16 : (setReg s r v).div16 = s.div16 := by cases r <;> rfl
@[simp] theorem setReg_tsub : (setReg s r v).tsub = s.tsub := by cases r <;> rfl
@[simp] theorem setReg_joyDpad : (setReg s r v).joyDpad = s.joyDpad := by cases r <;> rfl
@[simp] theorem setReg_joyBtn : (setReg s r v).joyBtn = s.joyBtn := by cases r <;> rfl
@[simp] theorem setReg_inputs : (setReg s r v).inputs = s.inputs := by cases r <;> rfl
@[simp] theorem setReg_lineCycles : (setReg s r v).lineCycles = s.lineCycles := by cases r <;> rfl
@[simp] theorem setReg_searched : (setReg s r v).searched = s.searched := by cases r <;> rfl
@[simp] theorem setReg_drawn : (setReg s r v).drawn = s.drawn := by cases r <;> rfl
@[simp] theorem setReg_visible : (setReg s r v).visible = s.visible := by cases r <;> rfl
@[simp] theorem setReg_fb : (setReg s r v).fb = s.fb := by cases r <;> rfl
@[simp] theorem setReg_frameDone : (setReg s r v).frameDone = s.frameDone := by cases r <;> rfl
@[simp] theorem setReg_frameCycles : (setReg s r v).frameCycles = s.frameCycles := by cases r <;> rfl

end

/-! ### `setHL` -/

section
variable (s : State) (v : Word)

@[simp] theorem setHL_a : (setHL s v).a = s.a := rfl
@[simp] theorem setHL_b : (setHL s v).b = s.b := rfl
@[simp] theorem setHL_c : (setHL s v).c = s.c := rfl
@[simp] theorem setHL_d : (setHL s v).d = s.d := rfl
@[simp] theorem setHL_e : (setHL s v).e = s.e := rfl
@[simp] theorem setHL_h : (setHL s v).h = hiByte v := rfl
@[simp] theorem setHL_l : (setHL s v).l = loByte v := rfl
@[simp] theorem setHL_flags : (setHL s v).flags = s.flags := rfl
@[simp] theorem setHL_pc : (setHL s v).pc = s.pc := rfl
@[simp] theorem setHL_sp : (setHL s v).sp = s.sp := rfl
@[simp] theorem setHL_ime : (setHL s v).ime = s.ime := rfl
@[simp] theorem setHL_halted : (setHL s v).halted = s.halted := rfl
@[simp] theorem setHL_fault : (setHL s v).fault = s.fault := rfl
@[simp] theorem setHL_haltWait : (setHL s v).haltWait = s.haltWait := rfl
@[simp] theorem setHL_cycles : (setHL s v).cycles = s.cycles := rfl
@[simp] theorem setHL_mem : (setHL s v).mem = s.mem := rfl
@[simp] theorem setHL_cart : (setHL s v).cart = s.cart := rfl
@[simp] theorem setHL_bootRom : (setHL s v).bootRom = s.bootRom := rfl
@[simp] theorem setHL_romBank : (setHL s v).romBank = s.romBank := rfl
@[simp] theorem setHL_bootMapped : (setHL s v).bootMapped = s.bootMapped := rfl
@[simp] theorem setHL_div16 : (setHL s v).div16 = s.div16 := rfl
@[simp] theorem setHL_tsub : (setHL s v).tsub = s.tsub := rfl
@[simp] theorem setHL_joyDpad : (setHL s v).joyDpad = s.joyDpad := rfl
@[simp] theorem setHL_joyBtn : (setHL s v).joyBtn = s.joyBtn := rfl
@[simp] theorem setHL_inputs : (setHL s v).inputs = s.inputs := rfl
@[simp] theorem setHL_lineCycles : (setHL s v).lineCycles = s.lineCycles := rfl
@[simp] theorem setHL_searched : (setHL s v).searched = s.searched := rfl
@[simp] theorem setHL_drawn : (setHL s v).drawn = s.drawn := rfl
@[simp] theorem setHL_visible : (setHL s v).visible = s.visible := rfl
@[simp] theorem setHL_fb : (setHL s v).fb = s.fb := rfl
@[simp] theorem setHL_frameDone : (setHL s v).frameDone = s.frameDone := rfl
@[simp] theorem setHL_frameCycles : (setHL s v).frameCycles = s.frameCycles := rfl

end

/-! ### `setPair` -/

section
variable (s : State) (p : Pair) (v : Word)

@[simp] theorem setPair_a : (setPair s p v).a = s.a := by cases p <;> rfl
@[simp] theorem setPair_flags : (setPair s p v).flags = s.flags := by cases p <;> rfl
@[simp] theorem setPair_pc : (setPair s p v).pc = s.pc := by cases p <;> rfl
@[simp] theorem setPair_ime : (setPair s p v).ime = s.ime := by cases p <;> rfl
@[simp] theorem setPair_halted : (setPair s p v).halted = s.halted := by cases p <;> rfl
@[simp] theorem setPair_fault : (setPair s p v).fault = s.fault := by cases p <;> rfl
@[simp] theorem setPair_haltWait : (setPair s p v).haltWait = s.haltWait := by cases p <;> rfl
@[simp] theorem setPair_cycles : (setPair s p v).cycles = s.cycles := by cases p <;> rfl
@[simp] theorem setPair_mem : (setPair s p v).mem = s.mem := by cases p <;> rfl
@[simp] theorem setPair_cart : (setPair s p v).cart = s.cart := by cases p <;> rfl
@[simp] theorem setPair_bootRom : (setPair s p v).bootRom = s.bootRom := by cases p <;> rfl
@[simp] theorem setPair_romBank : (setPair s p v).romBank = s.romBank := by cases p <;> rfl
@[simp] theorem setPair_bootMapped : (setPair s p v).bootMapped = s.bootMapped := by cases p <;> rfl
@[simp] theorem setPair_div16 : (setPair s p v).div16 = s.div16 := by cases p <;> rfl
@[simp] theorem setPair_tsub : (setPair s p v).tsub = s.tsub := by cases p <;> rfl
@[simp] theorem setPair_joyDpad : (setPair s p v).joyDpad = s.joyDpad := by cases p <;> rfl
@[simp] theorem setPair_joyBtn : (setPair s p v).joyBtn = s.joyBtn := by cases p <;> rfl
@[simp] theorem setPair_inputs : (setPair s p v).inputs = s.inputs := by cases p <;> rfl
@[simp] theorem setPair_lineCycles : (setPair s p v).lineCycles = s.lineCycles := by cases p <;> rfl
@[simp] theorem setPair_searched : (setPair s p v).searched = s.searched := by cases p <;> rfl
@[simp] theorem setPair_drawn : (setPair s p v).drawn = s.drawn := by cases p <;> rfl
@[simp] theorem setPair_visible : (setPair s p v).visible = s.visible := by cases p <;> rfl
@[simp] theorem setPair_fb : (setPair s p v).fb = s.fb := by cases p <;> rfl
@[simp] theorem setPair_frameDone : (setPair s p v).frameDone = s.frameDone := by cases p <;> rfl
@[simp] theorem setPair_frameCycles : (setPair s p v).frameCycles = s.frameCycles := by cases p <;> rfl

end

/-! ### `setStackPair` -/

section
variable (s : State) (q : StackPair) (v : Word)

@[simp] theorem setStackPair_a : (setStackPair s q v).a = s.a := by cases q <;> rfl
@[simp] theorem setStackPair_flags : (setStackPair s q v).flags = s.flags := by cases q <;> rfl
@[simp] theorem setStackPair_pc : (setStackPair s q v).pc = s.pc := by cases q <;> rfl
@[simp] theorem setStackPair_sp : (setStackPair s q v).sp = s.sp := by cases q <;> rfl
@[simp] theorem setStackPair_ime : (setStackPair s q v).ime = s.ime := by cases q <;> rfl
@[simp] theorem setStackPair_halted : (setStackPair s q v).halted = s.halted := by cases q <;> rfl
@[simp] theorem setStackPair_fault : (setStackPair s q v).fault = s.fault := by cases q <;> rfl
@[simp] theorem setStackPair_haltWait : (setStackPair s q v).haltWait = s.haltWait := by cases q <;> rfl
@[simp] theorem setStackPair_cycles : (setStackPair s q v).cycles = s.cycles := by cases q <;> rfl
@[simp] theorem setStackPair_mem : (setStackPair s q v).mem = s.mem := by cases q <;> rfl
@[simp] theorem setStackPair_cart : (setStackPair s q v).cart = s.cart := by cases q <;> rfl
@[simp] theorem setStackPair_bootRom : (setStackPair s q v).bootRom = s.bootRom := by cases q <;> rfl
@[simp] theorem setStackPair_romBank : (setStackPair s q v).romBank = s.romBank := by cases q <;> rfl
@[simp] theorem setStackPair_bootMapped : (setStackPair s q v).bootMapped = s.bootMapped := by cases q <;> rfl
@[simp] theorem setStackPair_div16 : (setStackPair s q v).div16 = s.div16 := by cases q <;> rfl
@[simp] theorem setStackPair_tsub : (setStackPair s q v).tsub = s.tsub := by cases q <;> rfl
@[simp] theorem setStackPair_joyDpad : (setStackPair s q v).joyDpad = s.joyDpad := by cases q <;> rfl
@[simp] theorem setStackPair_joyBtn : (setStackPair s q v).joyBtn = s.joyBtn := by cases q <;> rfl
@[simp] theorem setStackPair_inputs : (setStackPair s q v).inputs = s.inputs := by cases q <;> rfl
@[simp] theorem setStackPair_lineCycles : (setStackPair s q v).lineCycles = s.lineCycles := by cases q <;> rfl
@[simp] theorem setStackPair_searched : (setStackPair s q v).searched = s.searched := by cases q <;> rfl
@[simp] theorem setStackPair_drawn : (setStackPair s q v).drawn = s.drawn := by cases q <;> rfl
@[simp] theorem setStackPair_visible : (setStackPair s q v).visible = s.visible := by cases q <;> rfl
@[simp] theorem setStackPair_fb : (setStackPair s q v).fb = s.fb := by cases q <;> rfl
@[simp] theorem setStackPair_frameDone : (setStackPair s q v).frameDone = s.frameDone := by cases q <;> rfl
@[simp] theorem setStackPair_frameCycles : (setStackPair s q v).frameCycles = s.frameCycles := by cases q <;> rfl

end

/-! ### `poke` -/

section
variable (s : State) (n : Nat) (v : Byte)

@[simp] theorem poke_a : (poke s n v).a = s.a := rfl
@[simp] theorem poke_b : (poke s n v).b = s.b := rfl
@[simp] theorem poke_c : (poke s n v).c = s.c := rfl
@[simp] theorem poke_d : (poke s n v).d = s.d := rfl
@[simp] theorem poke_e : (poke s n v).e = s.e := rfl
@[simp] theorem poke_h : (poke s n v).h = s.h := rfl
@[simp] theorem poke_l : (poke s n v).l = s.l := rfl
@[simp] theorem poke_flags : (poke s n v).flags = s.flags := rfl
@[simp] theorem poke_pc : (poke s n v).pc = s.pc := rfl
@[simp] theorem poke_sp : (poke s n v).sp = s.sp := rfl
@[simp] theorem poke_ime : (poke s n v).ime = s.ime := rfl
@[simp] theorem poke_halted : (poke s n v).halted = s.halted := rfl
@[simp] theorem poke_fault : (poke s n v).fault = s.fault := rfl
@[simp] theorem poke_haltWait : (poke s n v).haltWait = s.haltWait := rfl
@[simp] theorem poke_cycles : (poke s n v).cycles = s.cycles := rfl
@[simp] theorem poke_mem : (poke s n v).mem = Memory.write s.mem n v := rfl
@[simp] theorem poke_cart : (poke s n v).cart = s.cart := rfl
@[simp] theorem poke_bootRom : (poke s n v).bootRom = s.bootRom := rfl
@[simp] theorem poke_romBank : (poke s n v).romBank = s.romBank := rfl
@[simp] theorem poke_bootMapped : (poke s n v).bootMapped = s.bootMapped := rfl
@[simp] theorem poke_div16 : (poke s n v).div16 = s.div16 := rfl
@[simp] theorem poke_tsub : (poke s n v).tsub = s.tsub := rfl
@[simp] theorem poke_joyDpad : (poke s n v).joyDpad = s.joyDpad := rfl
@[simp] theorem poke_joyBtn : (poke s n v).joyBtn = s.joyBtn := rfl
@[simp] theorem poke_inputs : (poke s n v).inputs = s.inputs := rfl
@[simp] theorem poke_lineCycles : (poke s n v).lineCycles = s.lineCycles := rfl
@[simp] theorem poke_searched : (poke s n v).searched = s.searched := rfl
@[simp] theorem poke_drawn : (poke s n v).drawn = s.drawn := rfl
@[simp] theorem poke_visible : (poke s n v).visible = s.visible := rfl
@[simp] theorem poke_fb : (poke s n v).fb = s.fb := rfl
@[simp] theorem poke_frameDone : (poke s n v).frameDone = s.frameDone := rfl
@[simp] theorem poke_frameCycles : (poke s n v).frameCycles = s.frameCycles := rfl

end

/-! ### `regWrite` -/

section
variable (s : State) (n : Nat) (v : Byte)

@[simp] theorem regWrite_a : (regWrite s n v).a = s.a := rfl
@[simp] theorem regWrite_b : (regWrite s n v).b = s.b := rfl
@[simp] theorem regWrite_c : (regWrite s n v).c = s.c := rfl
@[simp] theorem regWrite_d : (regWrite s n v).d = s.d := rfl
@[simp] theorem regWrite_e : (regWrite s n v).e = s.e := rfl
@[simp] theorem regWrite_h : (regWrite s n v).h = s.h := rfl
@[simp] theorem regWrite_l : (regWrite s n v).l = s.l := rfl
@[simp] theorem regWrite_flags : (regWrite s n v).flags = s.flags := rfl
@[simp] theorem regWrite_pc : (regWrite s n v).pc = s.pc := rfl
@[simp] theorem regWrite_sp : (regWrite s n v).sp = s.sp := rfl
@[simp] theorem regWrite_ime : (regWrite s n v).ime = s.ime := rfl
@[simp] theorem regWrite_halted : (regWrite s n v).halted = s.halted := rfl
@[simp] theorem regWrite_fault : (regWrite s n v).fault = s.fault := rfl
@[simp] theorem regWrite_haltWait : (regWrite s n v).haltWait = s.haltWait := rfl
@[simp] theorem regWrite_cycles : (regWrite s n v).cycles = s.cycles := rfl
@[simp] theorem regWrite_mem : (regWrite s n v).mem = Memory.write s.mem n v := rfl
@[simp] theorem regWrite_cart : (regWrite s n v).cart = s.cart := rfl
@[simp] theorem regWrite_bootRom : (regWrite s n v).bootRom = s.bootRom := rfl
@[simp] theorem regWrite_romBank : (regWrite s n v).romBank = s.romBank := rfl
@[simp] theorem regWrite_bootMapped : (regWrite s n v).bootMapped = s.bootMapped := rfl
@[simp] theorem regWrite_div16 : (regWrite s n v).div16 = s.div16 := rfl
@[simp] theorem regWrite_tsub : (regWrite s n v).tsub = s.tsub := rfl
@[simp] theorem regWrite_joyDpad : (regWrite s n v).joyDpad = s.joyDpad := rfl
@[simp] theorem regWrite_joyBtn : (regWrite s n v).joyBtn = s.joyBtn := rfl
@[simp] theorem regWrite_inputs : (regWrite s n v).inputs = s.inputs := rfl
@[simp] theorem regWrite_lineCycles : (regWrite s n v).lineCycles = s.lineCycles := rfl
@[simp] theorem regWrite_searched : (regWrite s n v).searched = s.searched := rfl
@[simp] theorem regWrite_drawn : (regWrite s n v).drawn = s.drawn := rfl
@[simp] theorem regWrite_visible : (regWrite s n v).visible = s.visible := rfl
@[simp] theorem regWrite_fb : (regWrite s n v).fb = s.fb := rfl
@[simp] theorem regWrite_frameDone : (regWrite s n v).frameDone = s.frameDone := rfl
@[simp] theorem regWrite_frameCycles : (regWrite s n v).frameCycles = s.frameCycles := rfl

end

/-! ### `popSp` -/

section
variable (s : State)

@[simp] theorem popSp_a : (popSp s).a = s.a := rfl
@[simp] theorem popSp_b : (popSp s).b = s.b := rfl
@[simp] theorem popSp_c : (popSp s).c = s.c := rfl
@[simp] theorem popSp_d : (popSp s).d = s.d := rfl
@[simp] theorem popSp_e : (popSp s).e = s.e := rfl
@[simp] theorem popSp_h : (popSp s).h = s.h := rfl
@[simp] theorem popSp_l : (popSp s).l = s.l := rfl
@[simp] theorem popSp_flags : (popSp s).flags = s.flags := rfl
@[simp] theorem popSp_pc : (popSp s).pc = s.pc := rfl
@[simp] theorem popSp_sp : (popSp s).sp = s.sp + 2 := rfl
@[simp] theorem popSp_ime : (popSp s).ime = s.ime := rfl
@[simp] theorem popSp_halted : (popSp s).halted = s.halted := rfl
@[simp] theorem popSp_fault : (popSp s).fault = s.fault := rfl
@[simp] theorem popSp_haltWait : (popSp s).haltWait = s.haltWait := rfl
@[simp] theorem popSp_cycles : (popSp s).cycles = s.cycles := rfl
@[simp] theorem popSp_mem : (popSp s).mem = s.mem := rfl
@[simp] theorem popSp_cart : (popSp s).cart = s.cart := rfl
@[simp] theorem popSp_bootRom : (popSp s).bootRom = s.bootRom := rfl
@[simp] theorem popSp_romBank : (popSp s).romBank = s.romBank := rfl
@[simp] theorem popSp_bootMapped : (popSp s).bootMapped = s.bootMapped := rfl
@[simp] theorem popSp_div16 : (popSp s).div16 = s.div16 := rfl
@[simp] theorem popSp_tsub : (popSp s).tsub = s.tsub := rfl
@[simp] theorem popSp_joyDpad : (popSp s).joyDpad = s.joyDpad := rfl
@[simp] theorem popSp_joyBtn : (popSp s).joyBtn = s.joyBtn := rfl
@[simp] theorem popSp_inputs : (popSp s).inputs = s.inputs := rfl
@[simp] theorem popSp_lineCycles : (popSp s).lineCycles = s.lineCycles := rfl
@[simp] theorem popSp_searched : (popSp s).searched = s.searched := rfl
@[simp] theorem popSp_drawn : (popSp s).drawn = s.drawn := rfl
@[simp] theorem popSp_visible : (popSp s).visible = s.visible := rfl
@[simp] theorem popSp_fb : (popSp s).fb = s.fb := rfl
@[simp] theorem popSp_frameDone : (popSp s).frameDone = s.frameDone := rfl
@[simp] theorem popSp_frameCycles : (popSp s).frameCycles = s.frameCycles := rfl

end

/-! ### `finish` -/

section
variable (len ticks : Nat) (s : State)

@[simp] theorem finish_a : (finish len ticks s).a = s.a := rfl
@[simp] theorem finish_b : (finish len ticks s).b = s.b := rfl
@[simp] theorem finish_c : (finish len ticks s).c = s.c := rfl
@[simp] theorem finish_d : (finish len ticks s).d = s.d := rfl
@[simp] theorem finish_e : (finish len ticks s).e = s.e := rfl
@[simp] theorem finish_h : (finish len ticks s).h = s.h := rfl
@[simp] theorem finish_l : (finish len ticks s).l = s.l := rfl
@[simp] theorem finish_flags : (finish len ticks s).flags = s.flags := rfl
@[simp] theorem finish_pc : (finish len ticks s).pc = s.pc + BitVec.ofNat 16 len := rfl
@[simp] theorem finish_sp : (finish len ticks s).sp = s.sp := rfl
@[simp] theorem finish_ime : (finish len ticks s).ime = s.ime := rfl
@[simp] theorem finish_halted : (finish len ticks s).halted = s.halted := rfl
@[simp] theorem finish_fault : (finish len ticks s).fault = s.fault := rfl
@[simp] theorem finish_haltWait : (finish len ticks s).haltWait = s.haltWait := rfl
@[simp] theorem finish_cycles : (finish len ticks s).cycles = ticks := rfl
@[simp] theorem finish_mem : (finish len ticks s).mem = s.mem := rfl
@[simp] theorem finish_cart : (finish len ticks s).cart = s.cart := rfl
@[simp] theorem finish_bootRom : (finish len ticks s).bootRom = s.bootRom := rfl
@[simp] theorem finish_romBank : (finish len ticks s).romBank = s.romBank := rfl
@[simp] theorem finish_bootMapped : (finish len ticks s).bootMapped = s.bootMapped := rfl
@[simp] theorem finish_div16 : (finish len ticks s).div16 = s.div16 := rfl
@[simp] theorem finish_tsub : (finish len ticks s).tsub = s.tsub := rfl
@[simp] theorem finish_joyDpad : (finish len ticks s).joyDpad = s.joyDpad := rfl
@[simp] theorem finish_joyBtn : (finish len ticks s).joyBtn = s.joyBtn := rfl
@[simp] theorem finish_inputs : (finish len ticks s).inputs = s.inputs := rfl
@[simp] theorem finish_lineCycles : (finish len ticks s).lineCycles = s.lineCycles := rfl
@[simp] theorem finish_searched : (finish len ticks s).searched = s.searched := rfl
@[simp] theorem finish_drawn : (finish len ticks s).drawn = s.drawn := rfl
@[simp] theorem finish_visible : (finish len ticks s).visible = s.visible := rfl
@[simp] theorem finish_fb : (finish len ticks s).fb = s.fb := rfl
@[simp] theorem finish_frameDone : (finish len ticks s).frameDone = s.frameDone := rfl
@[simp] theorem finish_frameCycles : (finish len ticks s).frameCycles = s.frameCycles := rfl

end

/-! ### `finishAt` -/

section
variable (target : Word) (ticks : Nat) (s : State)

@[simp] theorem finishAt_a : (finishAt target ticks s).a = s.a := rfl
@[simp] theorem finishAt_b : (finishAt target ticks s).b = s.b := rfl
@[simp] theorem finishAt_c : (finishAt target ticks s).c = s.c := rfl
@[simp] theorem finishAt_d : (finishAt target ticks s).d = s.d := rfl
@[simp] theorem finishAt_e : (finishAt target ticks s).e = s.e := rfl
@[simp] theorem finishAt_h : (finishAt target ticks s).h = s.h := rfl
@[simp] theorem finishAt_l : (finishAt target ticks s).l = s.l := rfl
@[simp] theorem finishAt_flags : (finishAt target ticks s).flags = s.flags := rfl
@[simp] theorem finishAt_pc : (finishAt target ticks s).pc = target := rfl
@[simp] theorem finishAt_sp : (finishAt target ticks s).sp = s.sp := rfl
@[simp] theorem finishAt_ime : (finishAt target ticks s).ime = s.ime := rfl
@[simp] theorem finishAt_halted : (finishAt target ticks s).halted = s.halted := rfl
@[simp] theorem finishAt_fault : (finishAt target ticks s).fault = s.fault := rfl
@[simp] theorem finishAt_haltWait : (finishAt target ticks s).haltWait = s.haltWait := rfl
@[simp] theorem finishAt_cycles : (finishAt target ticks s).cycles = ticks := rfl
@[simp] theorem finishAt_mem : (finishAt target ticks s).mem = s.mem := rfl
@[simp] theorem finishAt_cart : (finishAt target ticks s).cart = s.cart := rfl
@[simp] theorem finishAt_bootRom : (finishAt target ticks s).bootRom = s.bootRom := rfl
@[simp] theorem finishAt_romBank : (finishAt target ticks s).romBank = s.romBank := rfl
@[simp] theorem finishAt_bootMapped : (finishAt target ticks s).bootMapped = s.bootMapped := rfl
@[simp] theorem finishAt_div16 : (finishAt target ticks s).div16 = s.div16 := rfl
@[simp] theorem finishAt_tsub : (finishAt target ticks s).tsub = s.tsub := rfl
@[simp] theorem finishAt_joyDpad : (finishAt target ticks s).joyDpad = s.joyDpad := rfl
@[simp] theorem finishAt_joyBtn : (finishAt target ticks s).joyBtn = s.joyBtn := rfl
@[simp] theorem finishAt_inputs : (finishAt target ticks s).inputs = s.inputs := rfl
@[simp] theorem finishAt_lineCycles : (finishAt target ticks s).lineCycles = s.lineCycles := rfl
@[simp] theorem finishAt_searched : (finishAt target ticks s).searched = s.searched := rfl
@[simp] theorem finishAt_drawn : (finishAt target ticks s).drawn = s.drawn := rfl
@[simp] theorem finishAt_visible : (finishAt target ticks s).visible = s.visible := rfl
@[simp] theorem finishAt_fb : (finishAt target ticks s).fb = s.fb := rfl
@[simp] theorem finishAt_frameDone : (finishAt target ticks s).frameDone = s.frameDone := rfl
@[simp] theorem finishAt_frameCycles : (finishAt target ticks s).frameCycles = s.frameCycles := rfl

end

/-! ### `setA` -/

section
variable (s : State) (o : AluOut)

@[simp] theorem setA_a : (setA s o).a = o.res := rfl
@[simp] theorem setA_b : (setA s o).b = s.b := rfl
@[simp] theorem setA_c : (setA s o).c = s.c := rfl
@[simp] theorem setA_d : (setA s o).d = s.d := rfl
@[simp] theorem setA_e : (setA s o).e = s.e := rfl
@[simp] theorem setA_h : (setA s o).h = s.h := rfl
@[simp] theorem setA_l : (setA s o).l = s.l := rfl
@[simp] theorem setA_flags : (setA s o).flags = o.flags := rfl
@[simp] theorem setA_pc : (setA s o).pc = s.pc := rfl
@[simp] theorem setA_sp : (setA s o).sp = s.sp := rfl
@[simp] theorem setA_ime : (setA s o).ime = s.ime := rfl
@[simp] theorem setA_halted : (setA s o).halted = s.halted := rfl
@[simp] theorem setA_fault : (setA s o).fault = s.fault := rfl
@[simp] theorem setA_haltWait : (setA s o).haltWait = s.haltWait := rfl
@[simp] theorem setA_cycles : (setA s o).cycles = s.cycles := rfl
@[simp] theorem setA_mem : (setA s o).mem = s.mem := rfl
@[simp] theorem setA_cart : (setA s o).cart = s.cart := rfl
@[simp] theorem setA_bootRom : (setA s o).bootRom = s.bootRom := rfl
@[simp] theorem setA_romBank : (setA s o).romBank = s.romBank := rfl
@[simp] theorem setA_bootMapped : (setA s o).bootMapped = s.bootMapped := rfl
@[simp] theorem setA_div16 : (setA s o).div16 = s.div16 := rfl
@[simp] theorem setA_tsub : (setA s o).tsub = s.tsub := rfl
@[simp] theorem setA_joyDpad : (setA s o).joyDpad = s.joyDpad := rfl
@[simp] theorem setA_joyBtn : (setA s o).joyBtn = s.joyBtn := rfl
@[simp] theorem setA_inputs : (setA s o).inputs = s.inputs := rfl
@[simp] theorem setA_lineCycles : (setA s o).lineCycles = s.lineCycles := rfl
@[simp] theorem setA_searched : (setA s o).searched = s.searched := rfl
@[simp] theorem setA_drawn : (setA s o).drawn = s.drawn := rfl
@[simp] theorem setA_visible : (setA s o).visible = s.visible := rfl
@[simp] theorem setA_fb : (setA s o).fb = s.fb := rfl
@[simp] theorem setA_frameDone : (setA s o).frameDone = s.frameDone := rfl
@[simp] theorem setA_frameCycles : (setA s o).frameCycles = s.frameCycles := rfl

end

/-! ### `setRegFlags` -/

section
variable (s : State) (r : Reg8) (o : AluOut)

@[simp] theorem setRegFlags_flags : (setRegFlags s r o).flags = o.flags := rfl
@[simp] theorem setRegFlags_pc : (setRegFlags s r o).pc = s.pc := by cases r <;> rfl
@[simp] theorem setRegFlags_sp : (setRegFlags s r o).sp = s.sp := by cases r <;> rfl
@[simp] theorem setRegFlags_ime : (setRegFlags s r o).ime = s.ime := by cases r <;> rfl
@[simp] theorem setRegFlags_halted : (setRegFlags s r o).halted = s.halted := by cases r <;> rfl
@[simp] theorem setRegFlags_fault : (setRegFlags s r o).fault = s.fault := by cases r <;> rfl
@[simp] theorem setRegFlags_haltWait : (setRegFlags s r o).haltWait = s.haltWait := by cases r <;> rfl
@[simp] theorem setRegFlags_cycles : (setRegFlags s r o).cycles = s.cycles := by cases r <;> rfl
@[simp] theorem setRegFlags_mem : (setRegFlags s r o).mem = s.mem := by cases r <;> rfl
@[simp] theorem setRegFlags_cart : (setRegFlags s r o).cart = s.cart := by cases r <;> rfl
@[simp] theorem setRegFlags_bootRom : (setRegFlags s r o).bootRom = s.bootRom := by cases r <;> rfl
@[simp] theorem setRegFlags_romBank : (setRegFlags s r o).romBank = s.romBank := by cases r <;> rfl
@[simp] theorem setRegFlags_bootMapped : (setRegFlags s r o).bootMapped = s.bootMapped := by cases r <;> rfl
@[simp] theorem setRegFlags_div16 : (setRegFlags s r o).div16 = s.div16 := by cases r <;> rfl
@[simp] theorem setRegFlags_tsub : (setRegFlags s r o).tsub = s.tsub := by cases r <;> rfl
@[simp] theorem setRegFlags_joyDpad : (setRegFlags s r o).joyDpad = s.joyDpad := by cases r <;> rfl
@[simp] theorem setRegFlags_joyBtn : (setRegFlags s r o).joyBtn = s.joyBtn := by cases r <;> rfl
@[simp] theorem setRegFlags_inputs : (setRegFlags s r o).inputs = s.inputs := by cases r <;> rfl
@[simp] theorem setRegFlags_lineCycles : (setRegFlags s r o).lineCycles = s.lineCycles := by cases r <;> rfl
@[simp] theorem setRegFlags_searched : (setRegFlags s r o).searched = s.searched := by cases r <;> rfl
@[simp] theorem setRegFlags_drawn : (setRegFlags s r o).drawn = s.drawn := by cases r <;> rfl
@[simp] theorem setRegFlags_visible : (setRegFlags s r o).visible = s.visible := by cases r <;> rfl
@[simp] theorem setRegFlags_fb : (setRegFlags s r o).fb = s.fb := by cases r <;> rfl
@[simp] theorem setRegFlags_frameDone : (setRegFlags s r o).frameDone = s.frameDone := by cases r <;> rfl
@[simp] theorem setRegFlags_frameCycles : (setRegFlags s r o).frameCycles = s.frameCycles := by cases r <;> rfl

end

/-! ### Registers -/

theorem setRegFlags_eq (s : State) (r : Reg8) (o : AluOut) :
    setRegFlags s r o = { setReg s r o.res with flags := o.flags } := rfl

/-- A read after a write of a register (R11, R20). -/
theorem getReg_setReg (s : State) (r r' : Reg8) (v : Byte) :
    getReg (setReg s r v) r' = if r' = r then v else getReg s r' := by
  cases r <;> cases r' <;> rfl

@[simp] theorem getReg_setReg_same (s : State) (r : Reg8) (v : Byte) : getReg (setReg s r v) r = v := by
  cases r <;> rfl

theorem setReg_getReg (s : State) (r : Reg8) : setReg s r (getReg s r) = s := by cases r <;> rfl

theorem mkWord_toNat (x y : Byte) : (mkWord x y).toNat = 256 * x.toNat + y.toNat := by
  have h : (mkWord x y).toNat = x.toNat <<< 8 ||| y.toNat := BitVec.toNat_append x y
  rw [h, ← Nat.shiftLeft_add_eq_or_of_lt y.isLt, Nat.shiftLeft_eq]
  omega

theorem hiByte_toNat (w : Word) : (hiByte w).toNat = w.toNat / 256 := by
  have := w.isLt
  simp only [hiByte, BitVec.extractLsb'_toNat, Nat.shiftRight_eq_div_pow]
  omega

theorem loByte_toNat (w : Word) : (loByte w).toNat = w.toNat % 256 := by
  simp [loByte, BitVec.extractLsb'_toNat]

@[simp] theorem hiByte_mkWord (x y : Byte) : hiByte (mkWord x y) = x := by
  apply BitVec.eq_of_toNat_eq
  rw [hiByte_toNat, mkWord_toNat]
  omega

@[simp] theorem loByte_mkWord (x y : Byte) : loByte (mkWord x y) = y := by
  apply BitVec.eq_of_toNat_eq
  rw [loByte_toNat, mkWord_toNat]
  omega

@[simp] theorem mkWord_hi_lo (w : Word) : mkWord (hiByte w) (loByte w) = w := by
  apply BitVec.eq_of_toNat_eq
  rw [mkWord_toNat, hiByte_toNat, loByte_toNat]
  omega

@[simp] theorem getPair_setPair_same (s : State) (p : Pair) (v : Word) : getPair (setPair s p v) p = v := by
  cases p <;> simp [getPair, setPair, regBC, regDE, regHL]

@[simp] theorem getStackPair_setStackPair_same (s : State) (q : StackPair) (v : Word) :
    getStackPair (setStackPair s q v) q = v := by
  cases q <;> simp [getStackPair, setStackPair, regBC, regDE, regHL]

/-- `Unpack(Pack())` leaves the four flags unchanged (R23). -/
@[simp] theorem unpackFlags_packFlags (f : Flags) : unpackFlags (packFlags f) = f := by
  obtain ⟨z, n, h, c⟩ := f
  cases z <;> cases n <;> cases h <;> cases c <;> rfl

end Sys2Proof.Machine
end

