-- ==== Sys2Proof/Laws/Memory.lean ====
section
/-! SUPPORT. What each operation over memory and the stack can do, said once. -/

namespace Sys2Proof.Machine

/-! ### One cell -/

theorem peek_poke_same {s : State} {n : Nat} {v : Byte} (h : Memory.wf s.mem = true) : peek (poke s n v) n = v :=
  Memory.read_write_same h

theorem peek_poke_other {s : State} {n k : Nat} {v : Byte} (h : k ≠ n) : peek (poke s n v) k = peek s k :=
  Memory.read_write_other h

/-- Memory is in canonical form and lists only cells that can be written. -/
def MemOk (m : Memory) : Prop := Memory.wf m = true ∧ m.all (fun p => backedAddr p.1) = true

theorem MemOk.write {m : Memory} {n : Nat} {v : Byte} (h : MemOk m) (hn : n < 0x10000)
    (hb : backedAddr n = true) : MemOk (Memory.write m n v) :=
  ⟨Memory.write_wf h.1 hn, sparseSet_all h.2 hb⟩

/-! ### The OAM DMA -/

/-- The DMA changes memory and nothing else. -/
theorem dmaCopy_eq (src : Word) (k : Nat) (s : State) : dmaCopy src k s = { s with mem := (dmaCopy src k s).mem } := by
  induction k with
  | zero => rfl
  | succ k ih =>
    simp only [dmaCopy, poke]
    rw [ih]

theorem oamDma_eq (s : State) (v : Byte) : oamDma s v = { s with mem := (oamDma s v).mem } := by
  unfold oamDma
  generalize 160 = k
  exact dmaCopy_eq _ k _

/-- A cell outside the first `k` of OAM keeps its value. -/
theorem peek_dmaCopy_other {src : Word} {k n : Nat} {s : State} (h : n < 0xFE00 ∨ 0xFE00 + k ≤ n) :
    peek (dmaCopy src k s) n = peek s n := by
  induction k with
  | zero => rfl
  | succ k ih =>
    simp only [dmaCopy]
    rw [peek_poke_other (by omega)]
    exact ih (by omega)

theorem dmaCopy_wf {src : Word} {s : State} (h : Memory.wf s.mem = true) (k : Nat) (hk : k ≤ 160) :
    Memory.wf (dmaCopy src k s).mem = true := by
  induction k with
  | zero => exact h
  | succ k ih => exact Memory.write_wf (ih (by omega)) (by omega)

theorem MemOk.dmaCopy {src : Word} {s : State} (h : MemOk s.mem) (k : Nat) (hk : k ≤ 160) :
    MemOk (dmaCopy src k s).mem := by
  induction k with
  | zero => exact h
  | succ k ih =>
    refine MemOk.write (ih (by omega)) (by omega) ?_
    have h1 : 0x8000 ≤ 0xFE00 + k := by omega
    have h2 : ¬ 0xFE00 + k ≤ 0xFDFF := by omega
    have h3 : 0xFE00 + k ≠ addrDIV := by simp only [addrDIV]; omega
    simp [backedAddr, h1, h2, h3]

/-! ### The CPU write path -/

/-- Everything a store can do: memory, the divider, the bank and the boot overlay; no other field. -/
theorem memWrite_eq (s : State) (a : Word) (v : Byte) :
    memWrite s a v =
      { s with
        mem := (memWrite s a v).mem
        div16 := (memWrite s a v).div16
        romBank := (memWrite s a v).romBank
        bootMapped := (memWrite s a v).bootMapped } := by
  unfold memWrite
  dsimp only
  split
  · rfl
  split
  · unfold bankSelect
    split
    · rfl
    · split <;> rfl
  split
  · rfl
  split
  · rfl
  split
  · rfl
  split
  · rw [oamDma_eq]
  split
  · rfl
  split
  · rfl
  split <;> rfl

section
variable (s : State) (a : Word) (v : Byte)

@[simp] theorem memWrite_a : (memWrite s a v).a = s.a := by rw [memWrite_eq]
@[simp] theorem memWrite_b : (memWrite s a v).b = s.b := by rw [memWrite_eq]
@[simp] theorem memWrite_c : (memWrite s a v).c = s.c := by rw [memWrite_eq]
@[simp] theorem memWrite_d : (memWrite s a v).d = s.d := by rw [memWrite_eq]
@[simp] theorem memWrite_e : (memWrite s a v).e = s.e := by rw [memWrite_eq]
@[simp] theorem memWrite_h : (memWrite s a v).h = s.h := by rw [memWrite_eq]
@[simp] theorem memWrite_l : (memWrite s a v).l = s.l := by rw [memWrite_eq]
@[simp] theorem memWrite_flags : (memWrite s a v).flags = s.flags := by rw [memWrite_eq]
@[simp] theorem memWrite_pc : (memWrite s a v).pc = s.pc := by rw [memWrite_eq]
@[simp] theorem memWrite_sp : (memWrite s a v).sp = s.sp := by rw [memWrite_eq]
@[simp] theorem memWrite_ime : (memWrite s a v).ime = s.ime := by rw [memWrite_eq]
@[simp] theorem memWrite_halted : (memWrite s a v).halted = s.halted := by rw [memWrite_eq]
@[simp] theorem memWrite_fault : (memWrite s a v).fault = s.fault := by rw [memWrite_eq]
@[simp] theorem memWrite_haltWait : (memWrite s a v).haltWait = s.haltWait := by rw [memWrite_eq]
@[simp] theorem memWrite_cycles : (memWrite s a v).cycles = s.cycles := by rw [memWrite_eq]
@[simp] theorem memWrite_cart : (memWrite s a v).cart = s.cart := by rw [memWrite_eq]
@[simp] theorem memWrite_bootRom : (memWrite s a v).bootRom = s.bootRom := by rw [memWrite_eq]
@[simp] theorem memWrite_tsub : (memWrite s a v).tsub = s.tsub := by rw [memWrite_eq]
@[simp] theorem memWrite_joyDpad : (memWrite s a v).joyDpad = s.joyDpad := by rw [memWrite_eq]
@[simp] theorem memWrite_joyBtn : (memWrite s a v).joyBtn = s.joyBtn := by rw [memWrite_eq]
@[simp] theorem memWrite_inputs : (memWrite s a v).inputs = s.inputs := by rw [memWrite_eq]
@[simp] theorem memWrite_lineCycles : (memWrite s a v).lineCycles = s.lineCycles := by rw [memWrite_eq]
@[simp] theorem memWrite_searched : (memWrite s a v).searched = s.searched := by rw [memWrite_eq]
@[simp] theorem memWrite_drawn : (memWrite s a v).drawn = s.drawn := by rw [memWrite_eq]
@[simp] theorem memWrite_visible : (memWrite s a v).visible = s.visible := by rw [memWrite_eq]
@[simp] theorem memWrite_fb : (memWrite s a v).fb = s.fb := by rw [memWrite_eq]
@[simp] theorem memWrite_frameDone : (memWrite s a v).frameDone = s.frameDone := by rw [memWrite_eq]
@[simp] theorem memWrite_frameCycles : (memWrite s a v).frameCycles = s.frameCycles := by rw [memWrite_eq]

end

/-- A store keeps memory good. -/
theorem memWrite_ok {s : State} (a : Word) (v : Byte) (h : MemOk s.mem) : MemOk (memWrite s a v).mem := by
  have ha := a.isLt
  unfold memWrite
  dsimp only
  split
  · exact h.write (by decide) (by decide)
  split
  · unfold bankSelect
    split
    · exact h
    · split <;> exact h
  split
  · exact h
  split
  · rename_i hm
    refine h.write (by omega) ?_
    have h1 : 0x8000 ≤ a.toNat - 0x2000 := by omega
    have h2 : ¬ 0xE000 ≤ a.toNat - 0x2000 := by omega
    have h3 : a.toNat - 0x2000 ≠ addrDIV := by simp only [addrDIV]; omega
    simp [backedAddr, h1, h2, h3]
  split
  · exact h
  split
  · exact MemOk.dmaCopy (h.write (by decide) (by decide)) 160 (by omega)
  split
  · exact h.write (by decide) (by decide)
  split
  · exact h
  split
  · exact h.write (by decide) (by decide)
  · refine h.write ha ?_
    have h1 : 0x8000 ≤ a.toNat := by omega
    have h2 : ¬ (0xE000 ≤ a.toNat ∧ a.toNat ≤ 0xFDFF) := by assumption
    simp only [backedAddr, Bool.and_eq_true, decide_eq_true_eq, Bool.not_eq_true', Bool.and_eq_false_iff,
      decide_eq_false_iff_not]
    exact ⟨⟨h1, by omega⟩, by assumption⟩

/-- After the 5-bit mask only 0x00 and 0x14 are remapped (R74). -/
theorem aliasBank_eq : ∀ k < 32, aliasBank k = if k = 0x00 ∨ k = 0x14 then k + 1 else k := by decide

theorem memWrite_wf {s : State} (a : Word) (v : Byte) (h : Memory.wf s.mem = true) :
    Memory.wf (memWrite s a v).mem = true := by
  have ha := a.isLt
  unfold memWrite
  dsimp only
  split
  · exact Memory.write_wf h (by decide)
  split
  · unfold bankSelect
    split
    · exact h
    · split <;> exact h
  split
  · exact h
  split
  · exact Memory.write_wf h (by omega)
  split
  · exact h
  split
  · exact dmaCopy_wf (Memory.write_wf h (by decide)) 160 (by omega)
  split
  · exact Memory.write_wf h (by decide)
  split
  · exact h
  split
  · exact Memory.write_wf h (by decide)
  · exact Memory.write_wf h ha

/-- At a cell that only stores, a store is one cell written and a read is that cell (R69, R84). -/
theorem memWrite_plain {s : State} {a : Word} {v : Byte} (h : PlainCell a) : memWrite s a v = poke s a.toNat v := by
  have ha := a.isLt
  simp only [PlainCell, addrJOYP, addrDIV, addrSTAT, addrDMA, addrBOOT] at h
  unfold memWrite
  simp only [addrJOYP, addrDIV, addrSTAT, addrDMA, addrBOOT]
  iterate 9 rw [if_neg (by omega)]

theorem memRead_plain {s : State} {a : Word} (h : PlainCell a) : memRead s a = peek s a.toNat := by
  have ha := a.isLt
  simp only [PlainCell, addrJOYP, addrDIV, addrSTAT, addrDMA, addrBOOT] at h
  unfold memRead
  simp only [addrJOYP, addrDIV]
  iterate 6 rw [if_neg (by omega)]

/-- A mirror address reads and stores the work RAM cell (R67, R77). -/
theorem memWrite_mirror {s : State} {a : Word} {v : Byte} (h1 : 0xE000 ≤ a.toNat) (h2 : a.toNat ≤ 0xFDFF) :
    memWrite s a v = poke s (a.toNat - 0x2000) v := by
  unfold memWrite
  simp only [addrBOOT]
  iterate 3 rw [if_neg (by omega)]
  exact if_pos ⟨h1, h2⟩

theorem memRead_mirror {s : State} {a : Word} (h1 : 0xE000 ≤ a.toNat) (h2 : a.toNat ≤ 0xFDFF) :
    memRead s a = peek s (a.toNat - 0x2000) := by
  unfold memRead
  dsimp only
  iterate 3 rw [if_neg (by omega)]
  exact if_pos ⟨h1, h2⟩

/-- Nothing maps the boot ROM again (R73). -/
theorem memWrite_bootMapped {s : State} (a : Word) (v : Byte) (h : s.bootMapped = false) :
    (memWrite s a v).bootMapped = false := by
  unfold memWrite
  dsimp only
  split
  · rfl
  split
  · unfold bankSelect
    split
    · exact h
    · split <;> exact h
  split
  · exact h
  split
  · exact h
  split
  · exact h
  split
  · rw [oamDma_eq]; exact h
  split
  · exact h
  split
  · exact h
  split <;> exact h

/-- A store below 0x8000 is a bank select or nothing (R74, R75, R76). -/
theorem memWrite_rom {s : State} {a : Word} {v : Byte} (h : a.toNat < 0x8000) :
    memWrite s a v = if 0x2000 ≤ a.toNat ∧ a.toNat ≤ 0x3FFF then bankSelect s v else s := by
  have h1 : ¬ (a.toNat = addrBOOT ∧ v = 0x01) := by simp only [addrBOOT]; omega
  unfold memWrite
  simp only [if_neg h1, if_pos h]

/-- A store leaves every cell it is not routed to alone (R72 to R84). -/
theorem peek_memWrite_other {s : State} {a : Word} {v : Byte} {n : Nat} (h1 : n ≠ a.toNat)
    (h2 : 0xE000 ≤ a.toNat → a.toNat ≤ 0xFDFF → n ≠ a.toNat - 0x2000)
    (h3 : a.toNat = addrDMA → ¬ (0xFE00 ≤ n ∧ n ≤ 0xFE9F)) :
    peek (memWrite s a v) n = peek s n := by
  unfold memWrite
  dsimp only
  split
  · rename_i h; exact peek_poke_other (s := s) (by omega)
  split
  · unfold bankSelect
    split
    · rfl
    · split <;> rfl
  split
  · rfl
  split
  · rename_i h; exact peek_poke_other (h2 h.1 h.2)
  split
  · rfl
  split
  · rename_i h
    unfold oamDma
    rw [peek_dmaCopy_other (by have := h3 h; omega)]
    exact peek_poke_other (by omega)
  split
  · exact peek_poke_other (by omega)
  split
  · rfl
  split
  · exact peek_poke_other (by omega)
  exact peek_poke_other h1
/-- Only a store to BOOT touches the overlay (R73). -/
theorem memWrite_bootMapped_other {s : State} {a : Word} {v : Byte} (h : a.toNat ≠ addrBOOT) :
    (memWrite s a v).bootMapped = s.bootMapped := by
  unfold memWrite
  dsimp only
  split
  · rename_i hc
    exact absurd hc.1 h
  split
  · unfold bankSelect
    split
    · rfl
    · split <;> rfl
  split
  · rfl
  split
  · rfl
  split
  · rfl
  split
  · rw [oamDma_eq]
  split
  · rfl
  split
  · rfl
  split <;> rfl

/-- Only a store to 0x2000 to 0x3FFF selects a bank (R74). -/
theorem memWrite_romBank_other {s : State} {a : Word} {v : Byte} (h : ¬ (0x2000 ≤ a.toNat ∧ a.toNat ≤ 0x3FFF)) :
    (memWrite s a v).romBank = s.romBank := by
  unfold memWrite
  dsimp only
  split
  · rfl
  split
  · rfl
  split
  · rfl
  split
  · rfl
  split
  · rw [oamDma_eq]
  split
  · rfl
  split
  · rfl
  split <;> rfl

/-- Only a store to DIV touches the divider (R78). -/
theorem memWrite_div16_other {s : State} {a : Word} {v : Byte} (h : a.toNat ≠ addrDIV) :
    (memWrite s a v).div16 = s.div16 := by
  unfold memWrite
  dsimp only
  split
  · rfl
  split
  · unfold bankSelect
    split
    · rfl
    · split <;> rfl
  split
  · rfl
  split
  · rfl
  split
  · rw [oamDma_eq]
  split
  · rfl
  split
  · rfl
  split <;> rfl

/-- A store leaves the divider or clears it. -/
theorem memWrite_div16 (s : State) (a : Word) (v : Byte) :
    (memWrite s a v).div16 = s.div16 ∨ (memWrite s a v).div16 = 0 := by
  by_cases h : a.toNat = addrDIV
  · refine .inr ?_
    unfold memWrite
    simp [h, addrDIV, addrBOOT]
  · exact .inl (memWrite_div16_other h)

theorem writeTwice_div16 (s : State) (a b : Word) (v w : Byte) :
    (memWrite (memWrite s a v) b w).div16 = s.div16 ∨ (memWrite (memWrite s a v) b w).div16 = 0 := by
  obtain h | h := memWrite_div16 (memWrite s a v) b w
  · rw [h]; exact memWrite_div16 s a v
  · exact .inr h

/-! ### The CPU read path -/

/-- What a read at `b` depends on: the byte it returns is the same in two states that agree there. -/
theorem memRead_congr {s t : State} {b : Word} (hcart : t.cart = s.cart) (hrom : t.bootRom = s.bootRom)
    (hmap : b.toNat ≤ 0xFF → t.bootMapped = s.bootMapped)
    (hbank : 0x4000 ≤ b.toNat → b.toNat < 0x8000 → t.romBank = s.romBank)
    (hjd : t.joyDpad = s.joyDpad) (hjb : t.joyBtn = s.joyBtn) (hdiv : b.toNat = addrDIV → t.div16 = s.div16)
    (hm : 0x8000 ≤ b.toNat → ¬ (0xE000 ≤ b.toNat ∧ b.toNat ≤ 0xFDFF) → peek t b.toNat = peek s b.toNat)
    (hmir : 0xE000 ≤ b.toNat → b.toNat ≤ 0xFDFF → peek t (b.toNat - 0x2000) = peek s (b.toNat - 0x2000)) :
    memRead t b = memRead s b := by
  unfold memRead
  dsimp only
  by_cases h1 : b.toNat ≤ 0xFF
  · rw [hmap h1, hrom]
    have hrr : romRead t b.toNat = romRead s b.toNat := by
      unfold romRead; rw [hcart]; cases s.cart with
      | none => rfl
      | some im => simp only [romOffset]; rw [if_pos (by omega), if_pos (by omega)]
    have h2 : b.toNat < 0x8000 := by omega
    simp only [h2, if_true, hrr]
  · simp only [h1, and_false, if_false]
    split
    · rename_i h2
      unfold romRead; rw [hcart]; cases s.cart with
      | none => rfl
      | some im =>
        dsimp only
        unfold romOffset
        by_cases h3 : b.toNat < 0x4000
        · simp [h3]
        · rw [hbank (by omega) h2]
    · rw [hcart]
      split
      · rfl
      split
      · rename_i h; exact hmir h.1 h.2
      rename_i h8 _ hm'
      have hmm := hm (by omega) hm'
      split
      · rename_i h
        unfold joypValue
        rw [h] at hmm
        rw [hmm, hjd, hjb]
      split
      · rename_i h; rw [hdiv h]
      exact hmm

/-- The DMA copies each byte as the read path gives it before the copy starts, also from OAM onto itself (R81). -/
theorem peek_dmaCopy {s : State} {v : Byte} (hs : Memory.wf s.mem = true) (j : Nat) :
    ∀ k, j < k → k ≤ 160 →
      peek (dmaCopy (mkWord v 0x00) k s) (0xFE00 + j) = memRead s (mkWord v 0x00 + BitVec.ofNat 16 j) := by
  intro k
  induction k with
  | zero => intro h; omega
  | succ k ih =>
    intro h hk
    simp only [dmaCopy]
    by_cases hj : j = k
    · subst hj
      rw [peek_poke_same (dmaCopy_wf hs j (by omega))]
      have ha : (mkWord v 0x00 + BitVec.ofNat 16 j).toNat = 256 * v.toNat + j := by
        rw [BitVec.toNat_add, mkWord_toNat]; simp; have := v.isLt; omega
      have hv := v.isLt
      apply memRead_congr
      · rw [dmaCopy_eq]
      · rw [dmaCopy_eq]
      · intro _; rw [dmaCopy_eq]
      · intro _ _; rw [dmaCopy_eq]
      · rw [dmaCopy_eq]
      · rw [dmaCopy_eq]
      · intro _; rw [dmaCopy_eq]
      · intro h1 h2
        by_cases h3 : v.toNat = 0xFE
        · rw [ha]; exact peek_dmaCopy_other (by omega)
        · exact peek_dmaCopy_other (by omega)
      · intro h1 h2; exact peek_dmaCopy_other (by omega)
    · rw [peek_poke_other (by omega)]
      exact ih (by omega) (by omega)

/-! ### The stack -/

section
variable (s : State) (v : Word)

@[simp] theorem push16_a : (push16 s v).a = s.a := by simp [push16]
@[simp] theorem push16_b : (push16 s v).b = s.b := by simp [push16]
@[simp] theorem push16_c : (push16 s v).c = s.c := by simp [push16]
@[simp] theorem push16_d : (push16 s v).d = s.d := by simp [push16]
@[simp] theorem push16_e : (push16 s v).e = s.e := by simp [push16]
@[simp] theorem push16_h : (push16 s v).h = s.h := by simp [push16]
@[simp] theorem push16_l : (push16 s v).l = s.l := by simp [push16]
@[simp] theorem push16_flags : (push16 s v).flags = s.flags := by simp [push16]
@[simp] theorem push16_pc : (push16 s v).pc = s.pc := by simp [push16]
@[simp] theorem push16_ime : (push16 s v).ime = s.ime := by simp [push16]
@[simp] theorem push16_halted : (push16 s v).halted = s.halted := by simp [push16]
@[simp] theorem push16_fault : (push16 s v).fault = s.fault := by simp [push16]
@[simp] theorem push16_haltWait : (push16 s v).haltWait = s.haltWait := by simp [push16]
@[simp] theorem push16_cycles : (push16 s v).cycles = s.cycles := by simp [push16]
@[simp] theorem push16_cart : (push16 s v).cart = s.cart := by simp [push16]
@[simp] theorem push16_bootRom : (push16 s v).bootRom = s.bootRom := by simp [push16]
@[simp] theorem push16_tsub : (push16 s v).tsub = s.tsub := by simp [push16]
@[simp] theorem push16_joyDpad : (push16 s v).joyDpad = s.joyDpad := by simp [push16]
@[simp] theorem push16_joyBtn : (push16 s v).joyBtn = s.joyBtn := by simp [push16]
@[simp] theorem push16_inputs : (push16 s v).inputs = s.inputs := by simp [push16]
@[simp] theorem push16_lineCycles : (push16 s v).lineCycles = s.lineCycles := by simp [push16]
@[simp] theorem push16_searched : (push16 s v).searched = s.searched := by simp [push16]
@[simp] theorem push16_drawn : (push16 s v).drawn = s.drawn := by simp [push16]
@[simp] theorem push16_visible : (push16 s v).visible = s.visible := by simp [push16]
@[simp] theorem push16_fb : (push16 s v).fb = s.fb := by simp [push16]
@[simp] theorem push16_frameDone : (push16 s v).frameDone = s.frameDone := by simp [push16]
@[simp] theorem push16_frameCycles : (push16 s v).frameCycles = s.frameCycles := by simp [push16]

end

@[simp] theorem push16_sp (s : State) (v : Word) : (push16 s v).sp = s.sp - 2 := rfl

theorem push16_eq (s : State) (v : Word) : push16 s v = Pushed s v := rfl

theorem push16_div16 (s : State) (v : Word) : (push16 s v).div16 = s.div16 ∨ (push16 s v).div16 = 0 :=
  writeTwice_div16 s _ _ _ _

theorem push16_ok {s : State} (v : Word) (h : MemOk s.mem) : MemOk (push16 s v).mem :=
  memWrite_ok _ _ (memWrite_ok _ _ h)

theorem push16_bootMapped {s : State} (v : Word) (h : s.bootMapped = false) : (push16 s v).bootMapped = false :=
  memWrite_bootMapped _ _ (memWrite_bootMapped _ _ h)

/-- The two bytes of a push read back, where the stack lies in cells that store. -/
theorem push16_read {s : State} {v : Word} (hs : Memory.wf s.mem = true) (h1 : PlainCell (s.sp - 1))
    (h2 : PlainCell (s.sp - 2)) :
    memRead (push16 s v) (s.sp - 1) = hiByte v ∧ memRead (push16 s v) (s.sp - 2) = loByte v := by
  have hne : (s.sp - 2).toNat ≠ (s.sp - 1).toNat := by
    intro h
    have h' := BitVec.eq_of_toNat_eq h
    bv_omega
  rw [memRead_plain h1, memRead_plain h2]
  simp only [push16]
  rw [memWrite_plain h1, memWrite_plain h2]
  exact ⟨(peek_poke_other (s := poke s _ _) (Ne.symm hne)).trans (peek_poke_same hs),
    peek_poke_same (s := poke s _ _) (Memory.write_wf hs (BitVec.isLt _))⟩

/-! ### The byte at HL -/

section
variable (s : State) (v : Byte)

@[simp] theorem writeHL_a : (writeHL s v).a = s.a := by simp [writeHL]
@[simp] theorem writeHL_b : (writeHL s v).b = s.b := by simp [writeHL]
@[simp] theorem writeHL_c : (writeHL s v).c = s.c := by simp [writeHL]
@[simp] theorem writeHL_d : (writeHL s v).d = s.d := by simp [writeHL]
@[simp] theorem writeHL_e : (writeHL s v).e = s.e := by simp [writeHL]
@[simp] theorem writeHL_h : (writeHL s v).h = s.h := by simp [writeHL]
@[simp] theorem writeHL_l : (writeHL s v).l = s.l := by simp [writeHL]
@[simp] theorem writeHL_flags : (writeHL s v).flags = s.flags := by simp [writeHL]
@[simp] theorem writeHL_pc : (writeHL s v).pc = s.pc := by simp [writeHL]
@[simp] theorem writeHL_sp : (writeHL s v).sp = s.sp := by simp [writeHL]
@[simp] theorem writeHL_ime : (writeHL s v).ime = s.ime := by simp [writeHL]
@[simp] theorem writeHL_halted : (writeHL s v).halted = s.halted := by simp [writeHL]
@[simp] theorem writeHL_fault : (writeHL s v).fault = s.fault := by simp [writeHL]
@[simp] theorem writeHL_haltWait : (writeHL s v).haltWait = s.haltWait := by simp [writeHL]
@[simp] theorem writeHL_cycles : (writeHL s v).cycles = s.cycles := by simp [writeHL]
@[simp] theorem writeHL_cart : (writeHL s v).cart = s.cart := by simp [writeHL]
@[simp] theorem writeHL_bootRom : (writeHL s v).bootRom = s.bootRom := by simp [writeHL]
@[simp] theorem writeHL_tsub : (writeHL s v).tsub = s.tsub := by simp [writeHL]
@[simp] theorem writeHL_joyDpad : (writeHL s v).joyDpad = s.joyDpad := by simp [writeHL]
@[simp] theorem writeHL_joyBtn : (writeHL s v).joyBtn = s.joyBtn := by simp [writeHL]
@[simp] theorem writeHL_inputs : (writeHL s v).inputs = s.inputs := by simp [writeHL]
@[simp] theorem writeHL_lineCycles : (writeHL s v).lineCycles = s.lineCycles := by simp [writeHL]
@[simp] theorem writeHL_searched : (writeHL s v).searched = s.searched := by simp [writeHL]
@[simp] theorem writeHL_drawn : (writeHL s v).drawn = s.drawn := by simp [writeHL]
@[simp] theorem writeHL_visible : (writeHL s v).visible = s.visible := by simp [writeHL]
@[simp] theorem writeHL_fb : (writeHL s v).fb = s.fb := by simp [writeHL]
@[simp] theorem writeHL_frameDone : (writeHL s v).frameDone = s.frameDone := by simp [writeHL]
@[simp] theorem writeHL_frameCycles : (writeHL s v).frameCycles = s.frameCycles := by simp [writeHL]

end

section
variable (s : State) (o : AluOut)

@[simp] theorem setHLFlags_a : (setHLFlags s o).a = s.a := by simp [setHLFlags]
@[simp] theorem setHLFlags_b : (setHLFlags s o).b = s.b := by simp [setHLFlags]
@[simp] theorem setHLFlags_c : (setHLFlags s o).c = s.c := by simp [setHLFlags]
@[simp] theorem setHLFlags_d : (setHLFlags s o).d = s.d := by simp [setHLFlags]
@[simp] theorem setHLFlags_e : (setHLFlags s o).e = s.e := by simp [setHLFlags]
@[simp] theorem setHLFlags_h : (setHLFlags s o).h = s.h := by simp [setHLFlags]
@[simp] theorem setHLFlags_l : (setHLFlags s o).l = s.l := by simp [setHLFlags]
@[simp] theorem setHLFlags_pc : (setHLFlags s o).pc = s.pc := by simp [setHLFlags]
@[simp] theorem setHLFlags_sp : (setHLFlags s o).sp = s.sp := by simp [setHLFlags]
@[simp] theorem setHLFlags_ime : (setHLFlags s o).ime = s.ime := by simp [setHLFlags]
@[simp] theorem setHLFlags_halted : (setHLFlags s o).halted = s.halted := by simp [setHLFlags]
@[simp] theorem setHLFlags_fault : (setHLFlags s o).fault = s.fault := by simp [setHLFlags]
@[simp] theorem setHLFlags_haltWait : (setHLFlags s o).haltWait = s.haltWait := by simp [setHLFlags]
@[simp] theorem setHLFlags_cycles : (setHLFlags s o).cycles = s.cycles := by simp [setHLFlags]
@[simp] theorem setHLFlags_cart : (setHLFlags s o).cart = s.cart := by simp [setHLFlags]
@[simp] theorem setHLFlags_bootRom : (setHLFlags s o).bootRom = s.bootRom := by simp [setHLFlags]
@[simp] theorem setHLFlags_tsub : (setHLFlags s o).tsub = s.tsub := by simp [setHLFlags]
@[simp] theorem setHLFlags_joyDpad : (setHLFlags s o).joyDpad = s.joyDpad := by simp [setHLFlags]
@[simp] theorem setHLFlags_joyBtn : (setHLFlags s o).joyBtn = s.joyBtn := by simp [setHLFlags]
@[simp] theorem setHLFlags_inputs : (setHLFlags s o).inputs = s.inputs := by simp [setHLFlags]
@[simp] theorem setHLFlags_lineCycles : (setHLFlags s o).lineCycles = s.lineCycles := by simp [setHLFlags]
@[simp] theorem setHLFlags_searched : (setHLFlags s o).searched = s.searched := by simp [setHLFlags]
@[simp] theorem setHLFlags_drawn : (setHLFlags s o).drawn = s.drawn := by simp [setHLFlags]
@[simp] theorem setHLFlags_visible : (setHLFlags s o).visible = s.visible := by simp [setHLFlags]
@[simp] theorem setHLFlags_fb : (setHLFlags s o).fb = s.fb := by simp [setHLFlags]
@[simp] theorem setHLFlags_frameDone : (setHLFlags s o).frameDone = s.frameDone := by simp [setHLFlags]
@[simp] theorem setHLFlags_frameCycles : (setHLFlags s o).frameCycles = s.frameCycles := by simp [setHLFlags]

end

/-! ### Updates a read does not see -/

section
variable (s : State) (b : Word)

@[simp] theorem memRead_finish (len ticks : Nat) : memRead (finish len ticks s) b = memRead s b := rfl

@[simp] theorem memRead_finishAt (target : Word) (ticks : Nat) : memRead (finishAt target ticks s) b = memRead s b := rfl

@[simp] theorem memRead_setHL (v : Word) : memRead (setHL s v) b = memRead s b := rfl

@[simp] theorem memRead_setReg (r : Reg8) (v : Byte) : memRead (setReg s r v) b = memRead s b := by cases r <;> rfl

@[simp] theorem memRead_popSp : memRead (popSp s) b = memRead s b := rfl

@[simp] theorem memRead_writeHL (v : Byte) : memRead (writeHL s v) b = memRead (memWrite s (regHL s) v) b := rfl

@[simp] theorem memRead_setHLFlags (o : AluOut) :
    memRead (setHLFlags s o) b = memRead (memWrite s (regHL s) o.res) b := rfl

@[simp] theorem memRead_push16 (v : Word) :
    memRead (push16 s v) b = memRead (memWrite (memWrite s (s.sp - 1) (hiByte v)) (s.sp - 2) (loByte v)) b := rfl

end

theorem writeHL_ok {s : State} (v : Byte) (h : MemOk s.mem) : MemOk (writeHL s v).mem := memWrite_ok _ _ h

theorem setHLFlags_ok {s : State} (o : AluOut) (h : MemOk s.mem) : MemOk (setHLFlags s o).mem := memWrite_ok _ _ h

end Sys2Proof.Machine
end

