-- ==== Sys2Proof/Laws/Devices.lean ====
section
/-! SUPPORT. What the dispatcher, the timer, the PPU, the host input and the frame accounting can do, said once each. -/

namespace Sys2Proof.Machine

theorem regWrite_ok {s : State} {n : Nat} {v : Byte} (h : MemOk s.mem) (hn : n < 0x10000)
    (hb : backedAddr n = true) : MemOk (regWrite s n v).mem := h.write hn hb

/-! ### The dispatcher -/

section
variable (i : Nat) (s : State)

@[simp] theorem takeInterrupt_a : (takeInterrupt i s).a = s.a := by simp [takeInterrupt]
@[simp] theorem takeInterrupt_b : (takeInterrupt i s).b = s.b := by simp [takeInterrupt]
@[simp] theorem takeInterrupt_c : (takeInterrupt i s).c = s.c := by simp [takeInterrupt]
@[simp] theorem takeInterrupt_d : (takeInterrupt i s).d = s.d := by simp [takeInterrupt]
@[simp] theorem takeInterrupt_e : (takeInterrupt i s).e = s.e := by simp [takeInterrupt]
@[simp] theorem takeInterrupt_h : (takeInterrupt i s).h = s.h := by simp [takeInterrupt]
@[simp] theorem takeInterrupt_l : (takeInterrupt i s).l = s.l := by simp [takeInterrupt]
@[simp] theorem takeInterrupt_flags : (takeInterrupt i s).flags = s.flags := by simp [takeInterrupt]
@[simp] theorem takeInterrupt_halted : (takeInterrupt i s).halted = s.halted := by simp [takeInterrupt]
@[simp] theorem takeInterrupt_fault : (takeInterrupt i s).fault = s.fault := by simp [takeInterrupt]
@[simp] theorem takeInterrupt_cycles : (takeInterrupt i s).cycles = s.cycles := by simp [takeInterrupt]
@[simp] theorem takeInterrupt_cart : (takeInterrupt i s).cart = s.cart := by simp [takeInterrupt]
@[simp] theorem takeInterrupt_bootRom : (takeInterrupt i s).bootRom = s.bootRom := by simp [takeInterrupt]
@[simp] theorem takeInterrupt_tsub : (takeInterrupt i s).tsub = s.tsub := by simp [takeInterrupt]
@[simp] theorem takeInterrupt_joyDpad : (takeInterrupt i s).joyDpad = s.joyDpad := by simp [takeInterrupt]
@[simp] theorem takeInterrupt_joyBtn : (takeInterrupt i s).joyBtn = s.joyBtn := by simp [takeInterrupt]
@[simp] theorem takeInterrupt_inputs : (takeInterrupt i s).inputs = s.inputs := by simp [takeInterrupt]
@[simp] theorem takeInterrupt_lineCycles : (takeInterrupt i s).lineCycles = s.lineCycles := by simp [takeInterrupt]
@[simp] theorem takeInterrupt_searched : (takeInterrupt i s).searched = s.searched := by simp [takeInterrupt]
@[simp] theorem takeInterrupt_drawn : (takeInterrupt i s).drawn = s.drawn := by simp [takeInterrupt]
@[simp] theorem takeInterrupt_visible : (takeInterrupt i s).visible = s.visible := by simp [takeInterrupt]
@[simp] theorem takeInterrupt_fb : (takeInterrupt i s).fb = s.fb := by simp [takeInterrupt]
@[simp] theorem takeInterrupt_frameDone : (takeInterrupt i s).frameDone = s.frameDone := by simp [takeInterrupt]
@[simp] theorem takeInterrupt_frameCycles : (takeInterrupt i s).frameCycles = s.frameCycles := by simp [takeInterrupt]

end

@[simp] theorem takeInterrupt_pc (i : Nat) (s : State) :
    (takeInterrupt i s).pc = BitVec.ofNat 16 (0x0040 + 8 * i) := rfl

@[simp] theorem takeInterrupt_sp (i : Nat) (s : State) : (takeInterrupt i s).sp = s.sp - 2 := rfl

@[simp] theorem takeInterrupt_ime (i : Nat) (s : State) : (takeInterrupt i s).ime = false := by simp [takeInterrupt]

@[simp] theorem takeInterrupt_haltWait (i : Nat) (s : State) : (takeInterrupt i s).haltWait = false := by
  simp [takeInterrupt]

theorem takeInterrupt_ok {s : State} (i : Nat) (h : MemOk s.mem) : MemOk (takeInterrupt i s).mem :=
  push16_ok _ (h.write (by decide) (by decide))

theorem takeInterrupt_bootMapped {s : State} (i : Nat) (h : s.bootMapped = false) :
    (takeInterrupt i s).bootMapped = false := push16_bootMapped _ h

/-- The lowest interrupt that is requested and enabled is the pending one. -/
theorem pendingInterrupt_some {s : State} {i : Nat} (hi : i < 5)
    (h : (bit (regRead s addrIF) i && bit (regRead s addrIE) i) = true)
    (hlow : ∀ j < i, (bit (regRead s addrIF) j && bit (regRead s addrIE) j) = false) :
    pendingInterrupt s = some i := by
  unfold pendingInterrupt
  match i, hi with
  | 0, _ => simp only [List.find?_cons, h]
  | 1, _ => simp only [List.find?_cons, h, hlow 0 (by decide)]
  | 2, _ => simp only [List.find?_cons, h, hlow 0 (by decide), hlow 1 (by decide)]
  | 3, _ => simp only [List.find?_cons, h, hlow 0 (by decide), hlow 1 (by decide), hlow 2 (by decide)]
  | 4, _ =>
    simp only [List.find?_cons, h, hlow 0 (by decide), hlow 1 (by decide), hlow 2 (by decide), hlow 3 (by decide)]

theorem pendingInterrupt_none {s : State}
    (h : ∀ i < 5, (bit (regRead s addrIF) i && bit (regRead s addrIE) i) = false) : pendingInterrupt s = none := by
  unfold pendingInterrupt
  simp only [List.find?_cons, h 0 (by decide), h 1 (by decide), h 2 (by decide), h 3 (by decide), h 4 (by decide),
    List.find?_nil]

/-- The dispatcher does nothing, or enters the routine of the pending interrupt with IME set before. -/
theorem serviceInterrupts_cases (s : State) :
    serviceInterrupts s = s ∨
      ∃ i, s.halted = false ∧ s.ime = true ∧ pendingInterrupt s = some i ∧ serviceInterrupts s = takeInterrupt i s := by
  unfold serviceInterrupts handleInterrupts
  cases hh : s.halted
  · cases hi : s.ime
    · exact .inl (by simp)
    · cases hp : pendingInterrupt s with
      | none => exact .inl (by simp)
      | some i => exact .inr ⟨i, rfl, rfl, rfl, by simp⟩
  · exact .inl (by simp)

theorem serviceInterrupts_pending {s : State} {i : Nat} (h1 : s.halted = false) (h2 : s.ime = true)
    (h3 : pendingInterrupt s = some i) : serviceInterrupts s = takeInterrupt i s := by
  unfold serviceInterrupts handleInterrupts
  rw [h1, h2, h3]
  rfl

theorem serviceInterrupts_idle {s : State} (h : s.halted = true ∨ s.ime = false ∨ pendingInterrupt s = none) :
    serviceInterrupts s = s := by
  unfold serviceInterrupts handleInterrupts
  obtain h | h | h := h
  · rw [h]; rfl
  · rw [h]; simp
  · rw [h]; simp

section
variable (s : State)

@[simp] theorem serviceInterrupts_a : (serviceInterrupts s).a = s.a := by
  obtain h | ⟨i, -, -, -, h⟩ := serviceInterrupts_cases s <;> simp [h]
@[simp] theorem serviceInterrupts_b : (serviceInterrupts s).b = s.b := by
  obtain h | ⟨i, -, -, -, h⟩ := serviceInterrupts_cases s <;> simp [h]
@[simp] theorem serviceInterrupts_c : (serviceInterrupts s).c = s.c := by
  obtain h | ⟨i, -, -, -, h⟩ := serviceInterrupts_cases s <;> simp [h]
@[simp] theorem serviceInterrupts_d : (serviceInterrupts s).d = s.d := by
  obtain h | ⟨i, -, -, -, h⟩ := serviceInterrupts_cases s <;> simp [h]
@[simp] theorem serviceInterrupts_e : (serviceInterrupts s).e = s.e := by
  obtain h | ⟨i, -, -, -, h⟩ := serviceInterrupts_cases s <;> simp [h]
@[simp] theorem serviceInterrupts_h : (serviceInterrupts s).h = s.h := by
  obtain h | ⟨i, -, -, -, h⟩ := serviceInterrupts_cases s <;> simp [h]
@[simp] theorem serviceInterrupts_l : (serviceInterrupts s).l = s.l := by
  obtain h | ⟨i, -, -, -, h⟩ := serviceInterrupts_cases s <;> simp [h]
@[simp] theorem serviceInterrupts_flags : (serviceInterrupts s).flags = s.flags := by
  obtain h | ⟨i, -, -, -, h⟩ := serviceInterrupts_cases s <;> simp [h]
@[simp] theorem serviceInterrupts_halted : (serviceInterrupts s).halted = s.halted := by
  obtain h | ⟨i, -, -, -, h⟩ := serviceInterrupts_cases s <;> simp [h]
@[simp] theorem serviceInterrupts_fault : (serviceInterrupts s).fault = s.fault := by
  obtain h | ⟨i, -, -, -, h⟩ := serviceInterrupts_cases s <;> simp [h]
@[simp] theorem serviceInterrupts_cycles : (serviceInterrupts s).cycles = s.cycles := by
  obtain h | ⟨i, -, -, -, h⟩ := serviceInterrupts_cases s <;> simp [h]
@[simp] theorem serviceInterrupts_cart : (serviceInterrupts s).cart = s.cart := by
  obtain h | ⟨i, -, -, -, h⟩ := serviceInterrupts_cases s <;> simp [h]
@[simp] theorem serviceInterrupts_bootRom : (serviceInterrupts s).bootRom = s.bootRom := by
  obtain h | ⟨i, -, -, -, h⟩ := serviceInterrupts_cases s <;> simp [h]
@[simp] theorem serviceInterrupts_tsub : (serviceInterrupts s).tsub = s.tsub := by
  obtain h | ⟨i, -, -, -, h⟩ := serviceInterrupts_cases s <;> simp [h]
@[simp] theorem serviceInterrupts_joyDpad : (serviceInterrupts s).joyDpad = s.joyDpad := by
  obtain h | ⟨i, -, -, -, h⟩ := serviceInterrupts_cases s <;> simp [h]
@[simp] theorem serviceInterrupts_joyBtn : (serviceInterrupts s).joyBtn = s.joyBtn := by
  obtain h | ⟨i, -, -, -, h⟩ := serviceInterrupts_cases s <;> simp [h]
@[simp] theorem serviceInterrupts_inputs : (serviceInterrupts s).inputs = s.inputs := by
  obtain h | ⟨i, -, -, -, h⟩ := serviceInterrupts_cases s <;> simp [h]
@[simp] theorem serviceInterrupts_lineCycles : (serviceInterrupts s).lineCycles = s.lineCycles := by
  obtain h | ⟨i, -, -, -, h⟩ := serviceInterrupts_cases s <;> simp [h]
@[simp] theorem serviceInterrupts_searched : (serviceInterrupts s).searched = s.searched := by
  obtain h | ⟨i, -, -, -, h⟩ := serviceInterrupts_cases s <;> simp [h]
@[simp] theorem serviceInterrupts_drawn : (serviceInterrupts s).drawn = s.drawn := by
  obtain h | ⟨i, -, -, -, h⟩ := serviceInterrupts_cases s <;> simp [h]
@[simp] theorem serviceInterrupts_visible : (serviceInterrupts s).visible = s.visible := by
  obtain h | ⟨i, -, -, -, h⟩ := serviceInterrupts_cases s <;> simp [h]
@[simp] theorem serviceInterrupts_fb : (serviceInterrupts s).fb = s.fb := by
  obtain h | ⟨i, -, -, -, h⟩ := serviceInterrupts_cases s <;> simp [h]
@[simp] theorem serviceInterrupts_frameDone : (serviceInterrupts s).frameDone = s.frameDone := by
  obtain h | ⟨i, -, -, -, h⟩ := serviceInterrupts_cases s <;> simp [h]
@[simp] theorem serviceInterrupts_frameCycles : (serviceInterrupts s).frameCycles = s.frameCycles := by
  obtain h | ⟨i, -, -, -, h⟩ := serviceInterrupts_cases s <;> simp [h]

end

theorem serviceInterrupts_ok {s : State} (h : MemOk s.mem) : MemOk (serviceInterrupts s).mem := by
  obtain h' | ⟨i, -, -, -, h'⟩ := serviceInterrupts_cases s
  · rw [h']; exact h
  · rw [h']; exact takeInterrupt_ok i h

theorem serviceInterrupts_bootMapped {s : State} (h : s.bootMapped = false) :
    (serviceInterrupts s).bootMapped = false := by
  obtain h' | ⟨i, -, -, -, h'⟩ := serviceInterrupts_cases s
  · rw [h']; exact h
  · rw [h']; exact takeInterrupt_bootMapped i h

/-! ### The timer -/

theorem timerLimit_le (s : State) : timerLimit s ≤ 1024 := by
  unfold timerLimit timerThreshold
  split <;> omega

theorem timaIncrement_eq (s : State) : timaIncrement s = { s with mem := (timaIncrement s).mem } := by
  unfold timaIncrement
  dsimp only
  split <;> rfl

theorem timaIncrement_ok {s : State} (h : MemOk s.mem) : MemOk (timaIncrement s).mem := by
  unfold timaIncrement
  dsimp only
  split
  · exact regWrite_ok (regWrite_ok h (by decide) (by decide)) (by decide) (by decide)
  · exact regWrite_ok h (by decide) (by decide)

/-- Everything the timer can do: the divider counts, the sub-counter moves, memory holds TIMA and IF. -/
theorem timerTick_eq (n : Nat) (s : State) :
    timerTick n s =
      { s with
        div16 := s.div16 + BitVec.ofNat 16 n
        tsub := (timerTick n s).tsub
        mem := (timerTick n s).mem } := by
  unfold timerTick
  dsimp only
  split
  · rfl
  split
  · rw [timaIncrement_eq]
  · rfl

section
variable (n : Nat) (s : State)

@[simp] theorem timerTick_a : (timerTick n s).a = s.a := by rw [timerTick_eq]
@[simp] theorem timerTick_b : (timerTick n s).b = s.b := by rw [timerTick_eq]
@[simp] theorem timerTick_c : (timerTick n s).c = s.c := by rw [timerTick_eq]
@[simp] theorem timerTick_d : (timerTick n s).d = s.d := by rw [timerTick_eq]
@[simp] theorem timerTick_e : (timerTick n s).e = s.e := by rw [timerTick_eq]
@[simp] theorem timerTick_h : (timerTick n s).h = s.h := by rw [timerTick_eq]
@[simp] theorem timerTick_l : (timerTick n s).l = s.l := by rw [timerTick_eq]
@[simp] theorem timerTick_flags : (timerTick n s).flags = s.flags := by rw [timerTick_eq]
@[simp] theorem timerTick_pc : (timerTick n s).pc = s.pc := by rw [timerTick_eq]
@[simp] theorem timerTick_sp : (timerTick n s).sp = s.sp := by rw [timerTick_eq]
@[simp] theorem timerTick_ime : (timerTick n s).ime = s.ime := by rw [timerTick_eq]
@[simp] theorem timerTick_halted : (timerTick n s).halted = s.halted := by rw [timerTick_eq]
@[simp] theorem timerTick_fault : (timerTick n s).fault = s.fault := by rw [timerTick_eq]
@[simp] theorem timerTick_haltWait : (timerTick n s).haltWait = s.haltWait := by rw [timerTick_eq]
@[simp] theorem timerTick_cycles : (timerTick n s).cycles = s.cycles := by rw [timerTick_eq]
@[simp] theorem timerTick_cart : (timerTick n s).cart = s.cart := by rw [timerTick_eq]
@[simp] theorem timerTick_bootRom : (timerTick n s).bootRom = s.bootRom := by rw [timerTick_eq]
@[simp] theorem timerTick_romBank : (timerTick n s).romBank = s.romBank := by rw [timerTick_eq]
@[simp] theorem timerTick_bootMapped : (timerTick n s).bootMapped = s.bootMapped := by rw [timerTick_eq]
@[simp] theorem timerTick_joyDpad : (timerTick n s).joyDpad = s.joyDpad := by rw [timerTick_eq]
@[simp] theorem timerTick_joyBtn : (timerTick n s).joyBtn = s.joyBtn := by rw [timerTick_eq]
@[simp] theorem timerTick_inputs : (timerTick n s).inputs = s.inputs := by rw [timerTick_eq]
@[simp] theorem timerTick_lineCycles : (timerTick n s).lineCycles = s.lineCycles := by rw [timerTick_eq]
@[simp] theorem timerTick_searched : (timerTick n s).searched = s.searched := by rw [timerTick_eq]
@[simp] theorem timerTick_drawn : (timerTick n s).drawn = s.drawn := by rw [timerTick_eq]
@[simp] theorem timerTick_visible : (timerTick n s).visible = s.visible := by rw [timerTick_eq]
@[simp] theorem timerTick_fb : (timerTick n s).fb = s.fb := by rw [timerTick_eq]
@[simp] theorem timerTick_frameDone : (timerTick n s).frameDone = s.frameDone := by rw [timerTick_eq]
@[simp] theorem timerTick_frameCycles : (timerTick n s).frameCycles = s.frameCycles := by rw [timerTick_eq]

end

@[simp] theorem timerTick_div16 (n : Nat) (s : State) : (timerTick n s).div16 = s.div16 + BitVec.ofNat 16 n := by
  rw [timerTick_eq]

theorem timerTick_ok {s : State} (n : Nat) (h : MemOk s.mem) : MemOk (timerTick n s).mem := by
  unfold timerTick
  dsimp only
  split
  · exact h
  split
  · exact timaIncrement_ok (s := { s with div16 := _, tsub := _ }) h
  · exact h

theorem timerTick_tsub_lt {s : State} (n : Nat) (h : s.tsub < 1024) : (timerTick n s).tsub < 1024 := by
  unfold timerTick
  dsimp only
  split
  · exact h
  split
  · exact Nat.zero_lt_of_lt h
  · rename_i hl
    have := timerLimit_le { s with div16 := s.div16 + BitVec.ofNat 16 n, tsub := s.tsub + n }
    dsimp only at hl ⊢
    omega

/-! ### The PPU -/

section
variable (s : State) (m : BitVec 2)

@[simp] theorem setMode_a : (setMode s m).a = s.a := rfl
@[simp] theorem setMode_b : (setMode s m).b = s.b := rfl
@[simp] theorem setMode_c : (setMode s m).c = s.c := rfl
@[simp] theorem setMode_d : (setMode s m).d = s.d := rfl
@[simp] theorem setMode_e : (setMode s m).e = s.e := rfl
@[simp] theorem setMode_h : (setMode s m).h = s.h := rfl
@[simp] theorem setMode_l : (setMode s m).l = s.l := rfl
@[simp] theorem setMode_flags : (setMode s m).flags = s.flags := rfl
@[simp] theorem setMode_pc : (setMode s m).pc = s.pc := rfl
@[simp] theorem setMode_sp : (setMode s m).sp = s.sp := rfl
@[simp] theorem setMode_ime : (setMode s m).ime = s.ime := rfl
@[simp] theorem setMode_halted : (setMode s m).halted = s.halted := rfl
@[simp] theorem setMode_fault : (setMode s m).fault = s.fault := rfl
@[simp] theorem setMode_haltWait : (setMode s m).haltWait = s.haltWait := rfl
@[simp] theorem setMode_cycles : (setMode s m).cycles = s.cycles := rfl
@[simp] theorem setMode_cart : (setMode s m).cart = s.cart := rfl
@[simp] theorem setMode_bootRom : (setMode s m).bootRom = s.bootRom := rfl
@[simp] theorem setMode_romBank : (setMode s m).romBank = s.romBank := rfl
@[simp] theorem setMode_bootMapped : (setMode s m).bootMapped = s.bootMapped := rfl
@[simp] theorem setMode_div16 : (setMode s m).div16 = s.div16 := rfl
@[simp] theorem setMode_tsub : (setMode s m).tsub = s.tsub := rfl
@[simp] theorem setMode_joyDpad : (setMode s m).joyDpad = s.joyDpad := rfl
@[simp] theorem setMode_joyBtn : (setMode s m).joyBtn = s.joyBtn := rfl
@[simp] theorem setMode_inputs : (setMode s m).inputs = s.inputs := rfl
@[simp] theorem setMode_lineCycles : (setMode s m).lineCycles = s.lineCycles := rfl
@[simp] theorem setMode_searched : (setMode s m).searched = s.searched := rfl
@[simp] theorem setMode_drawn : (setMode s m).drawn = s.drawn := rfl
@[simp] theorem setMode_visible : (setMode s m).visible = s.visible := rfl
@[simp] theorem setMode_fb : (setMode s m).fb = s.fb := rfl
@[simp] theorem setMode_frameDone : (setMode s m).frameDone = s.frameDone := rfl
@[simp] theorem setMode_frameCycles : (setMode s m).frameCycles = s.frameCycles := rfl

end

theorem oamSearch_eq (s : State) :
    oamSearch s = { s with visible := (oamSearch s).visible, searched := (oamSearch s).searched } := by
  unfold oamSearch
  split <;> rfl

theorem pixelTransfer_eq (s : State) :
    pixelTransfer s = { s with fb := (pixelTransfer s).fb, drawn := (pixelTransfer s).drawn } := by
  unfold pixelTransfer
  split <;> rfl

theorem lycCompare_eq (line : Nat) (s : State) : lycCompare line s = { s with mem := (lycCompare line s).mem } := by
  unfold lycCompare
  dsimp only
  split
  · split <;> rfl
  · rfl

theorem lycCompare_ok {s : State} (line : Nat) (h : MemOk s.mem) : MemOk (lycCompare line s).mem := by
  unfold lycCompare
  dsimp only
  split
  · split
    · exact regWrite_ok (regWrite_ok h (by decide) (by decide)) (by decide) (by decide)
    · exact regWrite_ok h (by decide) (by decide)
  · exact regWrite_ok h (by decide) (by decide)

theorem setMode_ok {s : State} (m : BitVec 2) (h : MemOk s.mem) : MemOk (setMode s m).mem :=
  regWrite_ok h (by decide) (by decide)

theorem enterVBlank_ok {s : State} (h : MemOk s.mem) : MemOk (enterVBlank s).mem :=
  setMode_ok _ (regWrite_ok h (by decide) (by decide))

/-! ### The line's own updates, field by field -/

section
variable (n : Nat) (s : State)

@[simp] theorem startLine_a : (startLine s).a = s.a := by simp only [startLine]
@[simp] theorem startLine_b : (startLine s).b = s.b := by simp only [startLine]
@[simp] theorem startLine_c : (startLine s).c = s.c := by simp only [startLine]
@[simp] theorem startLine_d : (startLine s).d = s.d := by simp only [startLine]
@[simp] theorem startLine_e : (startLine s).e = s.e := by simp only [startLine]
@[simp] theorem startLine_h : (startLine s).h = s.h := by simp only [startLine]
@[simp] theorem startLine_l : (startLine s).l = s.l := by simp only [startLine]
@[simp] theorem startLine_flags : (startLine s).flags = s.flags := by simp only [startLine]
@[simp] theorem startLine_pc : (startLine s).pc = s.pc := by simp only [startLine]
@[simp] theorem startLine_sp : (startLine s).sp = s.sp := by simp only [startLine]
@[simp] theorem startLine_ime : (startLine s).ime = s.ime := by simp only [startLine]
@[simp] theorem startLine_halted : (startLine s).halted = s.halted := by simp only [startLine]
@[simp] theorem startLine_fault : (startLine s).fault = s.fault := by simp only [startLine]
@[simp] theorem startLine_haltWait : (startLine s).haltWait = s.haltWait := by simp only [startLine]
@[simp] theorem startLine_cycles : (startLine s).cycles = s.cycles := by simp only [startLine]
@[simp] theorem startLine_mem : (startLine s).mem = s.mem := by simp only [startLine]
@[simp] theorem startLine_cart : (startLine s).cart = s.cart := by simp only [startLine]
@[simp] theorem startLine_bootRom : (startLine s).bootRom = s.bootRom := by simp only [startLine]
@[simp] theorem startLine_romBank : (startLine s).romBank = s.romBank := by simp only [startLine]
@[simp] theorem startLine_bootMapped : (startLine s).bootMapped = s.bootMapped := by simp only [startLine]
@[simp] theorem startLine_div16 : (startLine s).div16 = s.div16 := by simp only [startLine]
@[simp] theorem startLine_tsub : (startLine s).tsub = s.tsub := by simp only [startLine]
@[simp] theorem startLine_joyDpad : (startLine s).joyDpad = s.joyDpad := by simp only [startLine]
@[simp] theorem startLine_joyBtn : (startLine s).joyBtn = s.joyBtn := by simp only [startLine]
@[simp] theorem startLine_inputs : (startLine s).inputs = s.inputs := by simp only [startLine]
@[simp] theorem startLine_lineCycles : (startLine s).lineCycles = s.lineCycles - 456 := by
  simp only [startLine, lineTicks]
@[simp] theorem startLine_searched : (startLine s).searched = false := by simp only [startLine]
@[simp] theorem startLine_drawn : (startLine s).drawn = false := by simp only [startLine]
@[simp] theorem startLine_visible : (startLine s).visible = s.visible := by simp only [startLine]
@[simp] theorem startLine_fb : (startLine s).fb = s.fb := by simp only [startLine]
@[simp] theorem startLine_frameDone : (startLine s).frameDone = s.frameDone := by simp only [startLine]
@[simp] theorem startLine_frameCycles : (startLine s).frameCycles = s.frameCycles := by simp only [startLine]

@[simp] theorem countFrame_a : (countFrame s).a = s.a := by simp only [countFrame]
@[simp] theorem countFrame_b : (countFrame s).b = s.b := by simp only [countFrame]
@[simp] theorem countFrame_c : (countFrame s).c = s.c := by simp only [countFrame]
@[simp] theorem countFrame_d : (countFrame s).d = s.d := by simp only [countFrame]
@[simp] theorem countFrame_e : (countFrame s).e = s.e := by simp only [countFrame]
@[simp] theorem countFrame_h : (countFrame s).h = s.h := by simp only [countFrame]
@[simp] theorem countFrame_l : (countFrame s).l = s.l := by simp only [countFrame]
@[simp] theorem countFrame_flags : (countFrame s).flags = s.flags := by simp only [countFrame]
@[simp] theorem countFrame_pc : (countFrame s).pc = s.pc := by simp only [countFrame]
@[simp] theorem countFrame_sp : (countFrame s).sp = s.sp := by simp only [countFrame]
@[simp] theorem countFrame_ime : (countFrame s).ime = s.ime := by simp only [countFrame]
@[simp] theorem countFrame_halted : (countFrame s).halted = s.halted := by simp only [countFrame]
@[simp] theorem countFrame_fault : (countFrame s).fault = s.fault := by simp only [countFrame]
@[simp] theorem countFrame_haltWait : (countFrame s).haltWait = s.haltWait := by simp only [countFrame]
@[simp] theorem countFrame_cycles : (countFrame s).cycles = s.cycles := by simp only [countFrame]
@[simp] theorem countFrame_mem : (countFrame s).mem = s.mem := by simp only [countFrame]
@[simp] theorem countFrame_cart : (countFrame s).cart = s.cart := by simp only [countFrame]
@[simp] theorem countFrame_bootRom : (countFrame s).bootRom = s.bootRom := by simp only [countFrame]
@[simp] theorem countFrame_romBank : (countFrame s).romBank = s.romBank := by simp only [countFrame]
@[simp] theorem countFrame_bootMapped : (countFrame s).bootMapped = s.bootMapped := by simp only [countFrame]
@[simp] theorem countFrame_div16 : (countFrame s).div16 = s.div16 := by simp only [countFrame]
@[simp] theorem countFrame_tsub : (countFrame s).tsub = s.tsub := by simp only [countFrame]
@[simp] theorem countFrame_joyDpad : (countFrame s).joyDpad = s.joyDpad := by simp only [countFrame]
@[simp] theorem countFrame_joyBtn : (countFrame s).joyBtn = s.joyBtn := by simp only [countFrame]
@[simp] theorem countFrame_inputs : (countFrame s).inputs = s.inputs := by simp only [countFrame]
@[simp] theorem countFrame_lineCycles : (countFrame s).lineCycles = s.lineCycles := by simp only [countFrame]
@[simp] theorem countFrame_searched : (countFrame s).searched = s.searched := by simp only [countFrame]
@[simp] theorem countFrame_drawn : (countFrame s).drawn = s.drawn := by simp only [countFrame]
@[simp] theorem countFrame_visible : (countFrame s).visible = s.visible := by simp only [countFrame]
@[simp] theorem countFrame_fb : (countFrame s).fb = s.fb := by simp only [countFrame]
@[simp] theorem countFrame_frameDone : (countFrame s).frameDone = s.frameDone + 1 := by simp only [countFrame]
@[simp] theorem countFrame_frameCycles : (countFrame s).frameCycles = s.frameCycles := by simp only [countFrame]

@[simp] theorem addLineTicks_a : (addLineTicks n s).a = s.a := by simp only [addLineTicks]
@[simp] theorem addLineTicks_b : (addLineTicks n s).b = s.b := by simp only [addLineTicks]
@[simp] theorem addLineTicks_c : (addLineTicks n s).c = s.c := by simp only [addLineTicks]
@[simp] theorem addLineTicks_d : (addLineTicks n s).d = s.d := by simp only [addLineTicks]
@[simp] theorem addLineTicks_e : (addLineTicks n s).e = s.e := by simp only [addLineTicks]
@[simp] theorem addLineTicks_h : (addLineTicks n s).h = s.h := by simp only [addLineTicks]
@[simp] theorem addLineTicks_l : (addLineTicks n s).l = s.l := by simp only [addLineTicks]
@[simp] theorem addLineTicks_flags : (addLineTicks n s).flags = s.flags := by simp only [addLineTicks]
@[simp] theorem addLineTicks_pc : (addLineTicks n s).pc = s.pc := by simp only [addLineTicks]
@[simp] theorem addLineTicks_sp : (addLineTicks n s).sp = s.sp := by simp only [addLineTicks]
@[simp] theorem addLineTicks_ime : (addLineTicks n s).ime = s.ime := by simp only [addLineTicks]
@[simp] theorem addLineTicks_halted : (addLineTicks n s).halted = s.halted := by simp only [addLineTicks]
@[simp] theorem addLineTicks_fault : (addLineTicks n s).fault = s.fault := by simp only [addLineTicks]
@[simp] theorem addLineTicks_haltWait : (addLineTicks n s).haltWait = s.haltWait := by simp only [addLineTicks]
@[simp] theorem addLineTicks_cycles : (addLineTicks n s).cycles = s.cycles := by simp only [addLineTicks]
@[simp] theorem addLineTicks_mem : (addLineTicks n s).mem = s.mem := by simp only [addLineTicks]
@[simp] theorem addLineTicks_cart : (addLineTicks n s).cart = s.cart := by simp only [addLineTicks]
@[simp] theorem addLineTicks_bootRom : (addLineTicks n s).bootRom = s.bootRom := by simp only [addLineTicks]
@[simp] theorem addLineTicks_romBank : (addLineTicks n s).romBank = s.romBank := by simp only [addLineTicks]
@[simp] theorem addLineTicks_bootMapped : (addLineTicks n s).bootMapped = s.bootMapped := by simp only [addLineTicks]
@[simp] theorem addLineTicks_div16 : (addLineTicks n s).div16 = s.div16 := by simp only [addLineTicks]
@[simp] theorem addLineTicks_tsub : (addLineTicks n s).tsub = s.tsub := by simp only [addLineTicks]
@[simp] theorem addLineTicks_joyDpad : (addLineTicks n s).joyDpad = s.joyDpad := by simp only [addLineTicks]
@[simp] theorem addLineTicks_joyBtn : (addLineTicks n s).joyBtn = s.joyBtn := by simp only [addLineTicks]
@[simp] theorem addLineTicks_inputs : (addLineTicks n s).inputs = s.inputs := by simp only [addLineTicks]
@[simp] theorem addLineTicks_lineCycles : (addLineTicks n s).lineCycles = s.lineCycles + n := by simp only [addLineTicks]
@[simp] theorem addLineTicks_searched : (addLineTicks n s).searched = s.searched := by simp only [addLineTicks]
@[simp] theorem addLineTicks_drawn : (addLineTicks n s).drawn = s.drawn := by simp only [addLineTicks]
@[simp] theorem addLineTicks_visible : (addLineTicks n s).visible = s.visible := by simp only [addLineTicks]
@[simp] theorem addLineTicks_fb : (addLineTicks n s).fb = s.fb := by simp only [addLineTicks]
@[simp] theorem addLineTicks_frameDone : (addLineTicks n s).frameDone = s.frameDone := by simp only [addLineTicks]
@[simp] theorem addLineTicks_frameCycles : (addLineTicks n s).frameCycles = s.frameCycles := by simp only [addLineTicks]

end

@[simp] theorem peek_startLine (s : State) (k : Nat) : peek (startLine s) k = peek s k := by simp only [peek, startLine_mem]

@[simp] theorem peek_addLineTicks (n : Nat) (s : State) (k : Nat) : peek (addLineTicks n s) k = peek s k := rfl

/-- Everything the entry into a line can do. -/
theorem enterLine_eq (line : Nat) (s : State) :
    enterLine line s = { s with mem := (enterLine line s).mem, frameDone := (enterLine line s).frameDone } := by
  unfold enterLine
  split
  · rw [lycCompare_eq]
    rfl
  split
  · rfl
  split <;> rfl

theorem enterLine_ok {s : State} (line : Nat) (h : MemOk s.mem) : MemOk (enterLine line s).mem := by
  have hly : ∀ {t : State} {v : Byte}, MemOk t.mem → MemOk (regWrite t addrLY v).mem :=
    fun ht => regWrite_ok ht (by decide) (by decide)
  unfold enterLine
  split
  · exact hly (lycCompare_ok _ h)
  split
  · exact hly (enterVBlank_ok h)
  split <;> exact hly h

/-- Everything a crossing into a new line can do. -/
theorem crossLine_eq (s : State) :
    crossLine s =
      { s with
        mem := (crossLine s).mem
        lineCycles := s.lineCycles - 456
        searched := false
        drawn := false
        frameDone := (crossLine s).frameDone } := by
  unfold crossLine
  generalize ly s + 1 = line
  rw [enterLine_eq]
  simp

theorem crossLine_ok {s : State} (h : MemOk s.mem) : MemOk (crossLine s).mem := by
  have h' : MemOk (startLine s).mem := by simpa using h
  unfold crossLine
  generalize ly s + 1 = line
  exact enterLine_ok line h'

/-- Everything the phase of the line can do. -/
theorem linePhase_eq (s : State) :
    linePhase s =
      { s with
        mem := (linePhase s).mem
        searched := (linePhase s).searched
        drawn := (linePhase s).drawn
        visible := (linePhase s).visible
        fb := (linePhase s).fb } := by
  unfold linePhase
  split
  · split
    · rw [oamSearch_eq]; rfl
    split
    · rw [pixelTransfer_eq, oamSearch_eq]; rfl
    · rfl
  · rfl

@[simp] theorem oamSearch_mem (s : State) : (oamSearch s).mem = s.mem := by rw [oamSearch_eq]

@[simp] theorem oamSearch_fb (s : State) : (oamSearch s).fb = s.fb := by rw [oamSearch_eq]

@[simp] theorem pixelTransfer_mem (s : State) : (pixelTransfer s).mem = s.mem := by rw [pixelTransfer_eq]

@[simp] theorem pixelTransfer_visible (s : State) : (pixelTransfer s).visible = s.visible := by
  rw [pixelTransfer_eq]

theorem linePhase_ok {s : State} (h : MemOk s.mem) : MemOk (linePhase s).mem := by
  unfold linePhase
  split
  · split
    · rw [oamSearch_mem]; exact setMode_ok _ h
    split
    · rw [pixelTransfer_mem, oamSearch_mem]; exact setMode_ok _ h
    · exact setMode_ok _ h
  · exact setMode_ok _ h

theorem searchOam_length (s : State) : (searchOam s).length ≤ 10 := List.length_take_le _ _

theorem oamSearch_visible_le {s : State} (h : s.visible.length ≤ 10) : (oamSearch s).visible.length ≤ 10 := by
  unfold oamSearch
  split
  · exact h
  · exact searchOam_length s

theorem lineCells_length (s : State) : (lineCells s).length = 160 := by
  unfold lineCells lcdWidth
  rw [List.length_map, List.length_range]

theorem pixelTransfer_fb_wf {s : State} (h : Framebuffer.wf s.fb = true) (hy : ly s < lcdHeight) :
    Framebuffer.wf (pixelTransfer s).fb = true := by
  unfold pixelTransfer
  split
  · exact h
  · exact Framebuffer.setRow_wf h hy (lineCells_length s)

/-- Everything `PpuUpdate` can do. -/
theorem ppuUpdate_eq (n : Nat) (s : State) :
    ppuUpdate n s =
      { s with
        mem := (ppuUpdate n s).mem
        lineCycles := (ppuUpdate n s).lineCycles
        searched := (ppuUpdate n s).searched
        drawn := (ppuUpdate n s).drawn
        visible := (ppuUpdate n s).visible
        fb := (ppuUpdate n s).fb
        frameDone := (ppuUpdate n s).frameDone } := by
  unfold ppuUpdate
  dsimp only
  split
  · rfl
  · rw [linePhase_eq]
    split
    · rw [crossLine_eq]
      rfl
    · rfl

section
variable (n : Nat) (s : State)

@[simp] theorem ppuUpdate_a : (ppuUpdate n s).a = s.a := by rw [ppuUpdate_eq]
@[simp] theorem ppuUpdate_b : (ppuUpdate n s).b = s.b := by rw [ppuUpdate_eq]
@[simp] theorem ppuUpdate_c : (ppuUpdate n s).c = s.c := by rw [ppuUpdate_eq]
@[simp] theorem ppuUpdate_d : (ppuUpdate n s).d = s.d := by rw [ppuUpdate_eq]
@[simp] theorem ppuUpdate_e : (ppuUpdate n s).e = s.e := by rw [ppuUpdate_eq]
@[simp] theorem ppuUpdate_h : (ppuUpdate n s).h = s.h := by rw [ppuUpdate_eq]
@[simp] theorem ppuUpdate_l : (ppuUpdate n s).l = s.l := by rw [ppuUpdate_eq]
@[simp] theorem ppuUpdate_flags : (ppuUpdate n s).flags = s.flags := by rw [ppuUpdate_eq]
@[simp] theorem ppuUpdate_pc : (ppuUpdate n s).pc = s.pc := by rw [ppuUpdate_eq]
@[simp] theorem ppuUpdate_sp : (ppuUpdate n s).sp = s.sp := by rw [ppuUpdate_eq]
@[simp] theorem ppuUpdate_ime : (ppuUpdate n s).ime = s.ime := by rw [ppuUpdate_eq]
@[simp] theorem ppuUpdate_halted : (ppuUpdate n s).halted = s.halted := by rw [ppuUpdate_eq]
@[simp] theorem ppuUpdate_fault : (ppuUpdate n s).fault = s.fault := by rw [ppuUpdate_eq]
@[simp] theorem ppuUpdate_haltWait : (ppuUpdate n s).haltWait = s.haltWait := by rw [ppuUpdate_eq]
@[simp] theorem ppuUpdate_cycles : (ppuUpdate n s).cycles = s.cycles := by rw [ppuUpdate_eq]
@[simp] theorem ppuUpdate_cart : (ppuUpdate n s).cart = s.cart := by rw [ppuUpdate_eq]
@[simp] theorem ppuUpdate_bootRom : (ppuUpdate n s).bootRom = s.bootRom := by rw [ppuUpdate_eq]
@[simp] theorem ppuUpdate_romBank : (ppuUpdate n s).romBank = s.romBank := by rw [ppuUpdate_eq]
@[simp] theorem ppuUpdate_bootMapped : (ppuUpdate n s).bootMapped = s.bootMapped := by rw [ppuUpdate_eq]
@[simp] theorem ppuUpdate_div16 : (ppuUpdate n s).div16 = s.div16 := by rw [ppuUpdate_eq]
@[simp] theorem ppuUpdate_tsub : (ppuUpdate n s).tsub = s.tsub := by rw [ppuUpdate_eq]
@[simp] theorem ppuUpdate_joyDpad : (ppuUpdate n s).joyDpad = s.joyDpad := by rw [ppuUpdate_eq]
@[simp] theorem ppuUpdate_joyBtn : (ppuUpdate n s).joyBtn = s.joyBtn := by rw [ppuUpdate_eq]
@[simp] theorem ppuUpdate_inputs : (ppuUpdate n s).inputs = s.inputs := by rw [ppuUpdate_eq]
@[simp] theorem ppuUpdate_frameCycles : (ppuUpdate n s).frameCycles = s.frameCycles := by rw [ppuUpdate_eq]

end

theorem ppuUpdate_ok {s : State} (n : Nat) (h : MemOk s.mem) : MemOk (ppuUpdate n s).mem := by
  unfold ppuUpdate
  dsimp only
  split
  · exact setMode_ok _ (regWrite_ok h (by decide) (by decide))
  · split
    · exact linePhase_ok (crossLine_ok (s := addLineTicks n s) h)
    · exact linePhase_ok h

theorem ppuUpdate_lineCycles_lt {s : State} {n : Nat} (h : s.lineCycles < 456) (hn : n ≤ 24) :
    (ppuUpdate n s).lineCycles < 456 := by
  unfold ppuUpdate
  dsimp only
  split
  · exact Nat.lt_of_le_of_lt (Nat.zero_le _) h
  · rw [linePhase_eq]
    dsimp only
    split
    · rw [crossLine_eq]
      simp only [addLineTicks_lineCycles]
      omega
    · rename_i hl
      simp only [addLineTicks_lineCycles, lineTicks] at hl ⊢
      omega

theorem linePhase_fb_wf {s : State} (h : Framebuffer.wf s.fb = true) : Framebuffer.wf (linePhase s).fb = true := by
  have hly : ∀ m, ly (setMode s m) = ly s := fun m => congrArg BitVec.toNat (peek_poke_other (by decide))
  unfold linePhase
  split
  · rename_i hy
    split
    · rw [oamSearch_fb]; exact h
    split
    · refine pixelTransfer_fb_wf (by rw [oamSearch_fb]; exact h) ?_
      have : ly (oamSearch (setMode s 3)) = ly (setMode s 3) := by
        unfold ly regRead peek
        rw [oamSearch_mem]
        rfl
      rw [this, hly]
      exact hy
    · exact h
  · exact h

theorem linePhase_visible_le {s : State} (h : s.visible.length ≤ 10) : (linePhase s).visible.length ≤ 10 := by
  unfold linePhase
  split
  · split
    · exact oamSearch_visible_le (s := setMode s 2) h
    split
    · rw [pixelTransfer_visible]; exact oamSearch_visible_le (s := setMode s 3) h
    · exact h
  · exact h

theorem ppuUpdate_fb_wf {s : State} (n : Nat) (h : Framebuffer.wf s.fb = true) :
    Framebuffer.wf (ppuUpdate n s).fb = true := by
  unfold ppuUpdate
  dsimp only
  split
  · exact h
  · refine linePhase_fb_wf ?_
    split
    · rw [crossLine_eq]; exact h
    · exact h

theorem ppuUpdate_visible_le {s : State} (n : Nat) (h : s.visible.length ≤ 10) :
    (ppuUpdate n s).visible.length ≤ 10 := by
  unfold ppuUpdate
  dsimp only
  split
  · exact h
  · refine linePhase_visible_le ?_
    split
    · rw [crossLine_eq]; exact h
    · exact h

/-! ### Host input and frame accounting -/

/-- A mask loses a bit exactly where a bit that was 1 is 0 in the new one. -/
theorem maskDrop_iff : ∀ x y : BitVec 4, x &&& ~~~y ≠ 0 ↔ ∃ b < 4, x.getLsbD b = true ∧ y.getLsbD b = false := by
  decide

theorem newlyPressed_iff (s : State) (i : HostInput) :
    newlyPressed s i = true ↔
      ∃ b < 4, s.joyDpad.getLsbD b = true ∧ i.dpad.getLsbD b = false ∨
        s.joyBtn.getLsbD b = true ∧ i.btn.getLsbD b = false := by
  unfold newlyPressed
  rw [Bool.or_eq_true, decide_eq_true_eq, decide_eq_true_eq, maskDrop_iff, maskDrop_iff]
  constructor
  · rintro (⟨b, hb, h⟩ | ⟨b, hb, h⟩)
    · exact ⟨b, hb, .inl h⟩
    · exact ⟨b, hb, .inr h⟩
  · rintro ⟨b, hb, h | h⟩
    · exact .inl ⟨b, hb, h⟩
    · exact .inr ⟨b, hb, h⟩

theorem handleInput_eq (i : HostInput) (s : State) :
    handleInput i s = { s with mem := (handleInput i s).mem, joyDpad := i.dpad, joyBtn := i.btn } := by
  unfold handleInput
  split <;> rfl

theorem handleInput_ok {s : State} (i : HostInput) (h : MemOk s.mem) : MemOk (handleInput i s).mem := by
  unfold handleInput
  dsimp only
  split
  · exact regWrite_ok h (by decide) (by decide)
  · exact h

/-- Everything the host can do at a frame boundary. -/
theorem hostTurn_eq (s : State) :
    hostTurn s =
      { s with
        mem := (hostTurn s).mem
        joyDpad := (hostTurn s).joyDpad
        joyBtn := (hostTurn s).joyBtn
        inputs := (hostTurn s).inputs } := by
  unfold hostTurn
  split
  · rfl
  · rfl
  · rw [handleInput_eq]

theorem hostTurn_ok {s : State} (h : MemOk s.mem) : MemOk (hostTurn s).mem := by
  unfold hostTurn
  split
  · exact h
  · exact h
  · exact handleInput_ok (s := { s with inputs := _ }) _ h

/-- Everything the frame accounting can do. -/
theorem frameAccount_eq (n : Nat) (s : State) :
    frameAccount n s =
      { s with
        mem := (frameAccount n s).mem
        joyDpad := (frameAccount n s).joyDpad
        joyBtn := (frameAccount n s).joyBtn
        inputs := (frameAccount n s).inputs
        frameCycles := if s.frameCycles + n ≥ 70224 then s.frameCycles + n - 70224 else s.frameCycles + n } := by
  unfold frameAccount frameTicks
  split
  · rw [hostTurn_eq]
  · rfl

section
variable (n : Nat) (s : State)

@[simp] theorem frameAccount_a : (frameAccount n s).a = s.a := by rw [frameAccount_eq]
@[simp] theorem frameAccount_b : (frameAccount n s).b = s.b := by rw [frameAccount_eq]
@[simp] theorem frameAccount_c : (frameAccount n s).c = s.c := by rw [frameAccount_eq]
@[simp] theorem frameAccount_d : (frameAccount n s).d = s.d := by rw [frameAccount_eq]
@[simp] theorem frameAccount_e : (frameAccount n s).e = s.e := by rw [frameAccount_eq]
@[simp] theorem frameAccount_h : (frameAccount n s).h = s.h := by rw [frameAccount_eq]
@[simp] theorem frameAccount_l : (frameAccount n s).l = s.l := by rw [frameAccount_eq]
@[simp] theorem frameAccount_flags : (frameAccount n s).flags = s.flags := by rw [frameAccount_eq]
@[simp] theorem frameAccount_pc : (frameAccount n s).pc = s.pc := by rw [frameAccount_eq]
@[simp] theorem frameAccount_sp : (frameAccount n s).sp = s.sp := by rw [frameAccount_eq]
@[simp] theorem frameAccount_ime : (frameAccount n s).ime = s.ime := by rw [frameAccount_eq]
@[simp] theorem frameAccount_halted : (frameAccount n s).halted = s.halted := by rw [frameAccount_eq]
@[simp] theorem frameAccount_fault : (frameAccount n s).fault = s.fault := by rw [frameAccount_eq]
@[simp] theorem frameAccount_haltWait : (frameAccount n s).haltWait = s.haltWait := by rw [frameAccount_eq]
@[simp] theorem frameAccount_cycles : (frameAccount n s).cycles = s.cycles := by rw [frameAccount_eq]
@[simp] theorem frameAccount_cart : (frameAccount n s).cart = s.cart := by rw [frameAccount_eq]
@[simp] theorem frameAccount_bootRom : (frameAccount n s).bootRom = s.bootRom := by rw [frameAccount_eq]
@[simp] theorem frameAccount_romBank : (frameAccount n s).romBank = s.romBank := by rw [frameAccount_eq]
@[simp] theorem frameAccount_bootMapped : (frameAccount n s).bootMapped = s.bootMapped := by rw [frameAccount_eq]
@[simp] theorem frameAccount_div16 : (frameAccount n s).div16 = s.div16 := by rw [frameAccount_eq]
@[simp] theorem frameAccount_tsub : (frameAccount n s).tsub = s.tsub := by rw [frameAccount_eq]
@[simp] theorem frameAccount_lineCycles : (frameAccount n s).lineCycles = s.lineCycles := by rw [frameAccount_eq]
@[simp] theorem frameAccount_searched : (frameAccount n s).searched = s.searched := by rw [frameAccount_eq]
@[simp] theorem frameAccount_drawn : (frameAccount n s).drawn = s.drawn := by rw [frameAccount_eq]
@[simp] theorem frameAccount_visible : (frameAccount n s).visible = s.visible := by rw [frameAccount_eq]
@[simp] theorem frameAccount_fb : (frameAccount n s).fb = s.fb := by rw [frameAccount_eq]
@[simp] theorem frameAccount_frameDone : (frameAccount n s).frameDone = s.frameDone := by rw [frameAccount_eq]

end

theorem frameAccount_ok {s : State} (n : Nat) (h : MemOk s.mem) : MemOk (frameAccount n s).mem := by
  unfold frameAccount
  split
  · exact hostTurn_ok (s := { s with frameCycles := _ }) h
  · exact h

theorem frameAccount_frameCycles_lt {s : State} {n : Nat} (h : s.frameCycles < 70224) (hn : n ≤ 24) :
    (frameAccount n s).frameCycles < 70224 := by
  rw [frameAccount_eq]
  dsimp only
  split <;> omega

end Sys2Proof.Machine
end

