-- ==== Sys2Proof/Laws/Encoding.lean ====
section
/-! SUPPORT. How a list of bytes is shown to encode an instruction: by the length its first byte gives and the window read. -/

namespace Sys2Proof.Machine

theorem encodes_one {b0 : Byte} {i : Instr} (hl : lengthOf b0 = 1) (hi : ∀ b1 b2, decodeWindow b0 b1 b2 = i) :
    Encodes [b0] i := by
  intro rest
  simp [decode, hl, hi]

theorem encodes_two {b0 b1 : Byte} {i : Instr} (hl : lengthOf b0 = 2) (hi : ∀ b2, decodeWindow b0 b1 b2 = i) :
    Encodes [b0, b1] i := by
  intro rest
  simp [decode, hl, hi]

theorem encodes_three {b0 b1 b2 : Byte} {i : Instr} (hl : lengthOf b0 = 3) (hi : decodeWindow b0 b1 b2 = i) :
    Encodes [b0, b1, b2] i := by
  intro rest
  simp [decode, hl, hi]

/-- The decoder's answer, taken apart: enough bytes, the window, and the bytes after the instruction. -/
theorem decode_cases {bs rest : List Byte} {i : Instr} (h : decode bs = .ok (i, rest)) :
    ∃ b0 tail, bs = b0 :: tail ∧ lengthOf b0 ≤ tail.length + 1 ∧
      i = decodeWindow b0 (tail.getD 0 0) (tail.getD 1 0) ∧ rest = tail.drop (lengthOf b0 - 1) := by
  cases bs with
  | nil => cases h
  | cons b0 tail =>
    simp only [decode] at h
    split at h
    · cases h
    · rename_i hl
      cases h
      exact ⟨b0, tail, rfl, by omega, rfl, rfl⟩

theorem lengthOf_range (b0 : Byte) : 1 ≤ lengthOf b0 ∧ lengthOf b0 ≤ 3 := by
  unfold lengthOf
  split
  · omega
  · split <;> omega

end Sys2Proof.Machine
end

