-- ==== Sys2Proof/Laws/Exec.lean ====
section
/-! SUPPORT. What every instruction can do, said once: it answers a next state, and touches nothing outside the CPU and
the memory controller. -/

namespace Sys2Proof.Machine

/-- The prefix byte runs the instruction its operand selects (R276). -/
theorem execPrefixCb_eq (op2 : Byte) (s : State) : execPrefixCb op2 s = exec (decodeCb op2) s := by
  have hrotR : ∀ y r, runRotR y r s = exec (decodeRotR y r) s := by
    intro y r
    match y with
    | 0 | 1 | 2 | 3 | 4 | 5 | 6 => rfl
    | n + 7 => rfl
  have hrotHl : ∀ y, runRotHl y s = exec (decodeRotHl y) s := by
    intro y
    match y with
    | 0 | 1 | 2 | 3 | 4 | 5 | 6 => rfl
    | n + 7 => rfl
  unfold execPrefixCb decodeCb
  generalize Reg8.ofCode (fieldZ op2) = z
  generalize fieldX op2 = x
  generalize fieldY op2 = y
  match x, z with
  | 0, some r => exact hrotR y r
  | 0, none => exact hrotHl y
  | 1, some r | 1, none | 2, some r | 2, none => rfl
  | n + 3, some r | n + 3, none => rfl

theorem decodeCb_ne_prefix (op2 x : Byte) : decodeCb op2 ≠ .prefixCb x := by
  unfold decodeCb decodeRotR decodeRotHl
  split <;> (try split) <;> simp

/-- How `t` may differ from `s` after an instruction. -/
structure CpuFrame (s t : State) : Prop where
  cart : t.cart = s.cart
  bootRom : t.bootRom = s.bootRom
  tsub : t.tsub = s.tsub
  joyDpad : t.joyDpad = s.joyDpad
  joyBtn : t.joyBtn = s.joyBtn
  inputs : t.inputs = s.inputs
  lineCycles : t.lineCycles = s.lineCycles
  searched : t.searched = s.searched
  drawn : t.drawn = s.drawn
  visible : t.visible = s.visible
  fb : t.fb = s.fb
  frameDone : t.frameDone = s.frameDone
  frameCycles : t.frameCycles = s.frameCycles
  memOk : MemOk s.mem → MemOk t.mem
  bootMapped : s.bootMapped = false → t.bootMapped = false
  div16 : t.div16 = s.div16 ∨ t.div16 = 0
  cycles : 4 ≤ t.cycles ∧ t.cycles ≤ 24 ∧ t.cycles % 4 = 0
  fault : t.halted = s.halted ∧ t.fault = s.fault ∨ t.halted = true ∧ ∃ op, t.fault = some { op := op, pc := s.pc }

theorem execBase_next (i : Instr) (s : State) (hp : ∀ x, i ≠ .prefixCb x) :
    ∃ t, exec i s = .next t ∧ CpuFrame s t := by
  cases i
  case prefixCb x => exact absurd rfl (hp x)
  all_goals
    refine ⟨_, rfl, ?_⟩
    clear hp
    (try split) <;> constructor <;> (try intro hm) <;>
      (try simp [returnFromInterrupt, raiseIllegalOpcode, haltedCycles]) <;>
      first
      | exact hm
      | exact memWrite_ok _ _ hm
      | exact memWrite_bootMapped _ _ hm
      | exact push16_ok _ hm
      | exact push16_bootMapped _ hm
      | exact memWrite_ok _ _ (memWrite_ok _ _ hm)
      | exact memWrite_bootMapped _ _ (memWrite_bootMapped _ _ hm)
      | exact memWrite_div16 _ _ _
      | exact push16_div16 _ _
      | exact push16_div16 s (s.pc + _)
      | exact writeTwice_div16 _ _ _ _ _

/-- Every instruction answers a next state (R301): no fault and no refusal; and what that state may differ in. -/
theorem exec_next (i : Instr) (s : State) : ∃ t, exec i s = .next t ∧ CpuFrame s t := by
  by_cases hp : ∃ x, i = .prefixCb x
  · obtain ⟨x, rfl⟩ := hp
    obtain ⟨t, ht, hf⟩ := execBase_next (decodeCb x) s (decodeCb_ne_prefix x)
    exact ⟨t, (execPrefixCb_eq x s).trans ht, hf⟩
  · exact execBase_next i s (fun x hx => hp ⟨x, hx⟩)

theorem exec_frame {i : Instr} {s t : State} (h : exec i s = .next t) : CpuFrame s t := by
  obtain ⟨t', ht, hf⟩ := exec_next i s
  rw [ht] at h
  cases h
  exact hf

end Sys2Proof.Machine
end

