-- ==== Sys2Proof/Laws/PerInstr.lean ====
section
/-! SUPPORT. Statements for all instructions, one lemma per constructor. `EncodedLength`: the first byte of an encoding
alone decides how many bytes it has (30_encoding.md R110). -/

namespace Sys2Proof.Laws.EncodedLength

/-- The encoding of `i` has as many bytes as its first byte says. -/
def Statement (i : Instr) : Prop := (encode i).length = lengthOf ((encode i).headD 0)

theorem ldRR (dst src : Reg8) : Statement (.ldRR dst src) := by cases dst <;> cases src <;> rfl

theorem ldRN (dst : Reg8) (n : Byte) : Statement (.ldRN dst n) := by cases dst <;> rfl

theorem ldRHl (dst : Reg8) : Statement (.ldRHl dst) := by cases dst <;> rfl

theorem ldHlR (src : Reg8) : Statement (.ldHlR src) := by cases src <;> rfl

theorem ldHlN (n : Byte) : Statement (.ldHlN n) := rfl

theorem ldABc : Statement .ldABc := rfl

theorem ldADe : Statement .ldADe := rfl

theorem ldBcA : Statement .ldBcA := rfl

theorem ldDeA : Statement .ldDeA := rfl

theorem ldANn (nn : Word) : Statement (.ldANn nn) := rfl

theorem ldNnA (nn : Word) : Statement (.ldNnA nn) := rfl

theorem ldhAC : Statement .ldhAC := rfl

theorem ldhCA : Statement .ldhCA := rfl

theorem ldhAN (n : Byte) : Statement (.ldhAN n) := rfl

theorem ldhNA (n : Byte) : Statement (.ldhNA n) := rfl

theorem ldAHld : Statement .ldAHld := rfl

theorem ldHldA : Statement .ldHldA := rfl

theorem ldAHli : Statement .ldAHli := rfl

theorem ldHliA : Statement .ldHliA := rfl

theorem ldRrNn (rr : Pair) (nn : Word) : Statement (.ldRrNn rr nn) := by cases rr <;> rfl

theorem ldNnSp (nn : Word) : Statement (.ldNnSp nn) := rfl

theorem ldSpHl : Statement .ldSpHl := rfl

theorem ldHlSpE (e : Byte) : Statement (.ldHlSpE e) := rfl

theorem pushRr (qq : StackPair) : Statement (.pushRr qq) := by cases qq <;> rfl

theorem pushAf : Statement .pushAf := rfl

theorem popRr (qq : StackPair) : Statement (.popRr qq) := by cases qq <;> rfl

theorem popAf : Statement .popAf := rfl

theorem addR (src : Reg8) : Statement (.addR src) := by cases src <;> rfl

theorem addHl : Statement .addHl := rfl

theorem addN (n : Byte) : Statement (.addN n) := rfl

theorem adcR (src : Reg8) : Statement (.adcR src) := by cases src <;> rfl

theorem adcHl : Statement .adcHl := rfl

theorem adcN (n : Byte) : Statement (.adcN n) := rfl

theorem subR (src : Reg8) : Statement (.subR src) := by cases src <;> rfl

theorem subHl : Statement .subHl := rfl

theorem subN (n : Byte) : Statement (.subN n) := rfl

theorem sbcR (src : Reg8) : Statement (.sbcR src) := by cases src <;> rfl

theorem sbcHl : Statement .sbcHl := rfl

theorem sbcN (n : Byte) : Statement (.sbcN n) := rfl

theorem andR (src : Reg8) : Statement (.andR src) := by cases src <;> rfl

theorem andHl : Statement .andHl := rfl

theorem andN (n : Byte) : Statement (.andN n) := rfl

theorem xorR (src : Reg8) : Statement (.xorR src) := by cases src <;> rfl

theorem xorHl : Statement .xorHl := rfl

theorem xorN (n : Byte) : Statement (.xorN n) := rfl

theorem orR (src : Reg8) : Statement (.orR src) := by cases src <;> rfl

theorem orHl : Statement .orHl := rfl

theorem orN (n : Byte) : Statement (.orN n) := rfl

theorem cpR (src : Reg8) : Statement (.cpR src) := by cases src <;> rfl

theorem cpHl : Statement .cpHl := rfl

theorem cpN (n : Byte) : Statement (.cpN n) := rfl

theorem incR (dst : Reg8) : Statement (.incR dst) := by cases dst <;> rfl

theorem incHl : Statement .incHl := rfl

theorem decR (dst : Reg8) : Statement (.decR dst) := by cases dst <;> rfl

theorem decHl : Statement .decHl := rfl

theorem daa : Statement .daa := rfl

theorem cpl : Statement .cpl := rfl

theorem scf : Statement .scf := rfl

theorem ccf : Statement .ccf := rfl

theorem addHlRr (rr : Pair) : Statement (.addHlRr rr) := by cases rr <;> rfl

theorem incRr (rr : Pair) : Statement (.incRr rr) := by cases rr <;> rfl

theorem decRr (rr : Pair) : Statement (.decRr rr) := by cases rr <;> rfl

theorem addSpE (e : Byte) : Statement (.addSpE e) := rfl

theorem rlca : Statement .rlca := rfl

theorem rla : Statement .rla := rfl

theorem rrca : Statement .rrca := rfl

theorem rra : Statement .rra := rfl

theorem rlcR (r : Reg8) : Statement (.rlcR r) := by cases r <;> rfl

theorem rlcHl : Statement .rlcHl := rfl

theorem rrcR (r : Reg8) : Statement (.rrcR r) := by cases r <;> rfl

theorem rrcHl : Statement .rrcHl := rfl

theorem rlR (r : Reg8) : Statement (.rlR r) := by cases r <;> rfl

theorem rlHl : Statement .rlHl := rfl

theorem rrR (r : Reg8) : Statement (.rrR r) := by cases r <;> rfl

theorem rrHl : Statement .rrHl := rfl

theorem slaR (r : Reg8) : Statement (.slaR r) := by cases r <;> rfl

theorem slaHl : Statement .slaHl := rfl

theorem sraR (r : Reg8) : Statement (.sraR r) := by cases r <;> rfl

theorem sraHl : Statement .sraHl := rfl

theorem swapR (r : Reg8) : Statement (.swapR r) := by cases r <;> rfl

theorem swapHl : Statement .swapHl := rfl

theorem srlR (r : Reg8) : Statement (.srlR r) := by cases r <;> rfl

theorem srlHl : Statement .srlHl := rfl

theorem bitBR (b : BitVec 3) (r : Reg8) : Statement (.bitBR b r) := by cases r <;> rfl

theorem bitBHl (b : BitVec 3) : Statement (.bitBHl b) := rfl

theorem resBR (b : BitVec 3) (r : Reg8) : Statement (.resBR b r) := by cases r <;> rfl

theorem resBHl (b : BitVec 3) : Statement (.resBHl b) := rfl

theorem setBR (b : BitVec 3) (r : Reg8) : Statement (.setBR b r) := by cases r <;> rfl

theorem setBHl (b : BitVec 3) : Statement (.setBHl b) := rfl

theorem jpNn (nn : Word) : Statement (.jpNn nn) := rfl

theorem jpCcNn (cc : Cond) (nn : Word) : Statement (.jpCcNn cc nn) := by cases cc <;> rfl

theorem jpHl : Statement .jpHl := rfl

theorem jrE (e : Byte) : Statement (.jrE e) := rfl

theorem jrCcE (cc : Cond) (e : Byte) : Statement (.jrCcE cc e) := by cases cc <;> rfl

theorem callNn (nn : Word) : Statement (.callNn nn) := rfl

theorem callCcNn (cc : Cond) (nn : Word) : Statement (.callCcNn cc nn) := by cases cc <;> rfl

theorem ret : Statement .ret := rfl

theorem retCc (cc : Cond) : Statement (.retCc cc) := by cases cc <;> rfl

theorem reti : Statement .reti := rfl

theorem rstT (t : BitVec 3) : Statement (.rstT t) := by unfold Statement; revert t; decide

theorem nop : Statement .nop := rfl

theorem halt : Statement .halt := rfl

theorem ei : Statement .ei := rfl

theorem di : Statement .di := rfl

theorem stop (n : Byte) : Statement (.stop n) := rfl

theorem prefixCb (op2 : Byte) : Statement (.prefixCb op2) := rfl

theorem illegalD3 : Statement .illegalD3 := rfl

theorem illegalDB : Statement .illegalDB := rfl

theorem illegalDD : Statement .illegalDD := rfl

theorem illegalE3 : Statement .illegalE3 := rfl

theorem illegalE4 : Statement .illegalE4 := rfl

theorem illegalEB : Statement .illegalEB := rfl

theorem illegalEC : Statement .illegalEC := rfl

theorem illegalED : Statement .illegalED := rfl

theorem illegalF4 : Statement .illegalF4 := rfl

theorem illegalFC : Statement .illegalFC := rfl

theorem illegalFD : Statement .illegalFD := rfl

end Sys2Proof.Laws.EncodedLength
end

