-- ==== Sys2Proof/Laws/Ppu.lean ====
section
/-! SUPPORT. What the scanline state machine leaves in LY, STAT and IF, cell by cell, and when it searches and draws. -/

namespace Sys2Proof.Machine

theorem regWrite_wf {s : State} {n : Nat} {v : Byte} (h : Memory.wf s.mem = true) (hn : n < 0x10000) :
    Memory.wf (regWrite s n v).mem = true := Memory.write_wf h hn

theorem peek_regWrite_same {s : State} {n : Nat} {v : Byte} (h : Memory.wf s.mem = true) :
    peek (regWrite s n v) n = v := peek_poke_same h

theorem peek_regWrite_other {s : State} {n k : Nat} {v : Byte} (h : k ≠ n) : peek (regWrite s n v) k = peek s k :=
  peek_poke_other h

theorem peek_congr {s t : State} {k : Nat} (h : t.mem = s.mem) : peek t k = peek s k := by
  unfold peek
  rw [h]

/-! ### The comparison with LYC -/

theorem lycCompare_wf {s : State} (l : Nat) (h : Memory.wf s.mem = true) : Memory.wf (lycCompare l s).mem = true := by
  unfold lycCompare
  dsimp only
  split
  · split
    · exact regWrite_wf (regWrite_wf h (by decide)) (by decide)
    · exact regWrite_wf h (by decide)
  · exact regWrite_wf h (by decide)

theorem lycCompare_stat {s : State} (l : Nat) (h : Memory.wf s.mem = true) :
    peek (lycCompare l s) 0xFF41 =
      if l = (peek s 0xFF45).toNat then setBit (peek s 0xFF41) 2 else clearBit (peek s 0xFF41) 2 := by
  have e1 : regRead s addrSTAT = peek s 0xFF41 := rfl
  have e2 : regRead s addrLYC = peek s 0xFF45 := rfl
  unfold lycCompare
  dsimp only
  rw [e1, e2]
  split
  · split
    · exact (peek_regWrite_other (by decide)).trans (peek_regWrite_same h)
    · exact peek_regWrite_same h
  · exact peek_regWrite_same h

theorem lycCompare_if {s : State} (l : Nat) (h : Memory.wf s.mem = true) :
    peek (lycCompare l s) 0xFF0F =
      if l = (peek s 0xFF45).toNat ∧ (peek s 0xFF41).getLsbD 6 = true then setBit (peek s 0xFF0F) 1
      else peek s 0xFF0F := by
  have e1 : regRead s addrSTAT = peek s 0xFF41 := rfl
  have e2 : regRead s addrLYC = peek s 0xFF45 := rfl
  unfold lycCompare
  dsimp only
  rw [e1, e2]
  split
  · rename_i hl
    split
    · rename_i hb
      have hb' : (peek s 0xFF41).getLsbD 6 = true := hb
      rw [if_pos ⟨hl, hb'⟩]
      refine (peek_regWrite_same (regWrite_wf h (by decide))).trans ?_
      congr 1
      exact peek_regWrite_other (by decide)
    · rename_i hb
      rw [if_neg (fun hh => hb hh.2)]
      exact peek_regWrite_other (by decide)
  · rename_i hl
    rw [if_neg (fun hh => hl hh.1)]
    exact peek_regWrite_other (by decide)

theorem lycCompare_other {s : State} (l : Nat) {k : Nat} (h1 : k ≠ 0xFF41) (h2 : k ≠ 0xFF0F) :
    peek (lycCompare l s) k = peek s k := by
  unfold lycCompare
  dsimp only
  split
  · split
    · exact (peek_regWrite_other h2).trans (peek_regWrite_other h1)
    · exact peek_regWrite_other h1
  · exact peek_regWrite_other h1

/-! ### The entry into a line -/

theorem enterVBlank_wf {s : State} (h : Memory.wf s.mem = true) : Memory.wf (enterVBlank s).mem = true :=
  regWrite_wf (s := regWrite _ _ _) (regWrite_wf h (by decide)) (by decide)

theorem enterLine_wf {s : State} (l : Nat) (h : Memory.wf s.mem = true) : Memory.wf (enterLine l s).mem = true := by
  unfold enterLine
  split
  · exact regWrite_wf (lycCompare_wf l h) (by decide)
  split
  · exact regWrite_wf (enterVBlank_wf h) (by decide)
  split
  · exact regWrite_wf (s := countFrame s) (by simpa using h) (by decide)
  · exact regWrite_wf h (by decide)

theorem enterLine_ly {s : State} {l : Nat} (hl : l ≤ 256) (h : Memory.wf s.mem = true) :
    (peek (enterLine l s) 0xFF44).toNat = if l > 153 then 0 else l := by
  unfold enterLine lcdHeight lastLine
  split
  · rw [peek_regWrite_same (lycCompare_wf l h), if_neg (by omega), BitVec.toNat_ofNat, Nat.mod_eq_of_lt (by omega)]
  split
  · rw [peek_regWrite_same (enterVBlank_wf h), if_neg (by omega), BitVec.toNat_ofNat, Nat.mod_eq_of_lt (by omega)]
  split
  · rw [peek_regWrite_same (s := countFrame s) (by simpa using h)]
    rfl
  · rw [peek_regWrite_same h, BitVec.toNat_ofNat, Nat.mod_eq_of_lt (by omega)]

theorem enterLine_stat {s : State} (l : Nat) (h : Memory.wf s.mem = true) :
    peek (enterLine l s) 0xFF41 =
      if l < 144 then (if l = (peek s 0xFF45).toNat then setBit (peek s 0xFF41) 2 else clearBit (peek s 0xFF41) 2)
      else if l = 144 then putLow2 (peek s 0xFF41) 1 else peek s 0xFF41 := by
  unfold enterLine lcdHeight
  split
  · exact (peek_regWrite_other (by decide)).trans (lycCompare_stat l h)
  split
  · refine (peek_regWrite_other (by decide)).trans ?_
    refine (peek_regWrite_same (regWrite_wf h (by decide))).trans ?_
    congr 1
    exact peek_regWrite_other (by decide)
  split
  · exact (peek_regWrite_other (by decide)).trans (peek_congr (countFrame_mem s))
  · exact peek_regWrite_other (by decide)

theorem enterLine_if {s : State} (l : Nat) (h : Memory.wf s.mem = true) :
    peek (enterLine l s) 0xFF0F =
      if l < 144 then
        (if l = (peek s 0xFF45).toNat ∧ (peek s 0xFF41).getLsbD 6 = true then setBit (peek s 0xFF0F) 1
        else peek s 0xFF0F)
      else if l = 144 then setBit (peek s 0xFF0F) 0 else peek s 0xFF0F := by
  unfold enterLine lcdHeight
  split
  · exact (peek_regWrite_other (by decide)).trans (lycCompare_if l h)
  split
  · refine (peek_regWrite_other (by decide)).trans ?_
    refine (peek_regWrite_other (by decide)).trans ?_
    exact peek_regWrite_same h
  split
  · exact (peek_regWrite_other (by decide)).trans (peek_congr (countFrame_mem s))
  · exact peek_regWrite_other (by decide)

/-- The entry into a line writes LY, STAT and IF, and no other cell. -/
theorem enterLine_other {s : State} (l : Nat) {k : Nat} (h1 : k ≠ 0xFF44) (h2 : k ≠ 0xFF41) (h3 : k ≠ 0xFF0F) :
    peek (enterLine l s) k = peek s k := by
  unfold enterLine
  split
  · exact (peek_regWrite_other h1).trans (lycCompare_other l h2 h3)
  split
  · exact (peek_regWrite_other h1).trans ((peek_regWrite_other h2).trans (peek_regWrite_other h3))
  split
  · exact (peek_regWrite_other h1).trans (peek_congr (countFrame_mem s))
  · exact peek_regWrite_other h1

theorem enterLine_frameDone (l : Nat) (s : State) :
    (enterLine l s).frameDone = if l > 153 then s.frameDone + 1 else s.frameDone := by
  unfold enterLine lcdHeight lastLine
  split
  · rw [if_neg (by omega), lycCompare_eq]
    rfl
  split
  · rw [if_neg (by omega)]
    rfl
  split
  · rfl
  · rfl

/-! ### The phase of a line -/

/-- The phase writes STAT bits 1:0 by the line and the tick, and no other cell. -/
theorem linePhase_mem (s : State) :
    ∃ m : BitVec 2, (linePhase s).mem = (setMode s m).mem ∧
      m.toNat = if ly s < 144 then (if s.lineCycles < 80 then 2 else if s.lineCycles < 252 then 3 else 0) else 1 := by
  unfold linePhase lcdHeight oamEnd xferEnd
  split
  · split
    · exact ⟨_, oamSearch_mem _, rfl⟩
    split
    · exact ⟨_, (pixelTransfer_mem _).trans (oamSearch_mem _), rfl⟩
    · exact ⟨_, rfl, rfl⟩
  · exact ⟨_, rfl, rfl⟩

theorem linePhase_other {s : State} {k : Nat} (h : k ≠ 0xFF41) : peek (linePhase s) k = peek s k := by
  obtain ⟨m, hm, -⟩ := linePhase_mem s
  exact (peek_congr hm).trans (peek_regWrite_other h)

theorem linePhase_stat {s : State} (h : Memory.wf s.mem = true) :
    ∃ m : BitVec 2, peek (linePhase s) 0xFF41 = putLow2 (peek s 0xFF41) m ∧
      m.toNat = if ly s < 144 then (if s.lineCycles < 80 then 2 else if s.lineCycles < 252 then 3 else 0) else 1 := by
  obtain ⟨m, hm, hv⟩ := linePhase_mem s
  exact ⟨m, (peek_congr hm).trans (peek_regWrite_same h), hv⟩

theorem linePhase_ly (s : State) : peek (linePhase s) 0xFF44 = peek s 0xFF44 := linePhase_other (by decide)

@[simp] theorem linePhase_lineCycles (s : State) : (linePhase s).lineCycles = s.lineCycles := by rw [linePhase_eq]

/-- The mode does not reach LY. -/
@[simp] theorem ly_setMode (s : State) (m : BitVec 2) : ly (setMode s m) = ly s :=
  congrArg BitVec.toNat (peek_regWrite_other (s := s) (n := addrSTAT) (by decide))

theorem linePhase_search {s : State} (h1 : ly s < 144) (h2 : s.lineCycles < 80) :
    linePhase s = oamSearch (setMode s 2) := (if_pos h1).trans (if_pos h2)

theorem linePhase_transfer {s : State} (h1 : ly s < 144) (h2 : 80 ≤ s.lineCycles) (h3 : s.lineCycles < 252) :
    linePhase s = pixelTransfer (oamSearch (setMode s 3)) :=
  ((if_pos h1).trans (if_neg (Nat.not_lt.2 h2))).trans (if_pos h3)

/-- In H-Blank and V-Blank the phase writes the mode and nothing else. -/
theorem linePhase_blank {s : State} (h : ¬ (ly s < 144 ∧ s.lineCycles < 252)) : ∃ m, linePhase s = setMode s m := by
  unfold linePhase lcdHeight oamEnd xferEnd
  split
  · rw [if_neg (by omega), if_neg (by omega)]
    exact ⟨_, rfl⟩
  · exact ⟨_, rfl⟩

/-! ### The search and the transfer -/

theorem oamSearch_done {s : State} (h : s.searched = true) : oamSearch s = s := if_pos h

/-- The list is the search of the state answered: it depends neither on the list nor on the flag. -/
theorem oamSearch_new {s : State} (h : s.searched = false) :
    (oamSearch s).visible = searchOam (oamSearch s) ∧
      oamSearch s = { s with visible := (oamSearch s).visible, searched := true } := by
  have e : oamSearch s = { s with visible := searchOam s, searched := true } := if_neg (by simp [h])
  rw [e]
  exact ⟨rfl, rfl⟩

@[simp] theorem oamSearch_searched (s : State) : (oamSearch s).searched = true := by
  cases h : s.searched
  · rw [(oamSearch_new h).2]
  · rw [oamSearch_done h, h]

@[simp] theorem oamSearch_drawn (s : State) : (oamSearch s).drawn = s.drawn := by rw [oamSearch_eq]

theorem pixelTransfer_done {s : State} (h : s.drawn = true) : pixelTransfer s = s := if_pos h

theorem pixelTransfer_new {s : State} (h : s.drawn = false) :
    pixelTransfer s = { s with fb := s.fb.setRow (ly s) (lineCells s), drawn := true } := if_neg (by simp [h])

@[simp] theorem pixelTransfer_drawn (s : State) : (pixelTransfer s).drawn = true := by
  cases h : s.drawn
  · rw [pixelTransfer_new h]
  · rw [pixelTransfer_done h, h]

@[simp] theorem pixelTransfer_searched (s : State) : (pixelTransfer s).searched = s.searched := by rw [pixelTransfer_eq]

/-- A pixel depends neither on the framebuffer nor on the flag the transfer writes. -/
theorem pixel_pixelTransfer (s : State) (x : Nat) : pixel (pixelTransfer s) x = pixel s x := by
  have mux : ∀ (f : Framebuffer) (b : Bool) (bg : FbCell) (l : List Sprite),
      spriteMux { s with fb := f, drawn := b } x bg l = spriteMux s x bg l := by
    intro f b bg l
    induction l with
    | nil => rfl
    | cons sp rest ih =>
      unfold spriteMux
      rw [ih]
      rfl
  rw [pixelTransfer_eq]
  unfold pixel
  rw [mux]
  rfl

theorem searchOam_pixelTransfer (s : State) : searchOam (pixelTransfer s) = searchOam s := by
  rw [pixelTransfer_eq]
  rfl

/-- Row LY takes the pixels of the line, no other row changes. -/
theorem pixelTransfer_cell {s : State} (h : s.drawn = false) (hf : Framebuffer.wf s.fb = true) :
    (∀ x < 160, (pixelTransfer s).fb.cell (ly s) x = pixel s x) ∧
      ∀ y x, y ≠ ly s → (pixelTransfer s).fb.cell y x = s.fb.cell y x := by
  rw [pixelTransfer_new h]
  refine ⟨fun x hx => ?_, fun y x hy => ?_⟩
  · show (Framebuffer.row (s.fb.setRow (ly s) (lineCells s)) (ly s)).getD x blankCell = pixel s x
    rw [Framebuffer.row_setRow_same hf]
    unfold lineCells lcdWidth
    rw [List.getD_eq_getElem?_getD]
    simp [hx]
  · show (Framebuffer.row (s.fb.setRow (ly s) (lineCells s)) y).getD x blankCell = s.fb.cell y x
    rw [Framebuffer.row_setRow_other hy]
    rfl

/-! ### The update -/

theorem ppuUpdate_off {s : State} (n : Nat) (h : (peek s 0xFF40).getLsbD 7 = false) : ppuUpdate n s = lcdOff s :=
  if_pos h

/-- With the LCD on: the ticks added, a crossing where the line is full, then the phase. -/
theorem ppuUpdate_on {s : State} {n : Nat} (h : (peek s 0xFF40).getLsbD 7 = true) :
    ppuUpdate n s =
      linePhase (if s.lineCycles + n ≥ 456 then enterLine ((peek s 0xFF44).toNat + 1) (startLine (addLineTicks n s))
      else addLineTicks n s) := by
  have h' : ¬ lcdcBit s 7 = false := by
    have : lcdcBit s 7 = true := h
    simp [this]
  exact if_neg h'

/-- With the LCD on an update is the phase of a state `u` in which the sprites and the framebuffer are the old ones and a
crossing has cleared the two flags. -/
theorem ppuUpdate_phase {s : State} (n : Nat) (h : (peek s 0xFF40).getLsbD 7 = true) :
    ∃ u, ppuUpdate n s = linePhase u ∧ u.visible = s.visible ∧ u.fb = s.fb ∧
      (u.searched = true ↔ s.searched = true ∧ ¬ 456 ≤ s.lineCycles + n) ∧
      (u.drawn = true ↔ s.drawn = true ∧ ¬ 456 ≤ s.lineCycles + n) := by
  refine ⟨_, ppuUpdate_on h, ?_⟩
  split
  · rename_i hc
    rw [enterLine_eq]
    simp [Nat.not_lt.2 hc]
  · rename_i hc
    simp only [ge_iff_le] at hc
    simp [hc]

end Sys2Proof.Machine
end

