-- ==== Sys2Proof/Laws/Step.lean ====
section
/-! SUPPORT. One step, taken apart once: the CPU's part, then the dispatcher, the timer, the PPU and the frame accounting. -/

namespace Sys2Proof.Machine

/-- The decoder on three bytes reads what the fetch reads. -/
theorem decode_three (b0 b1 b2 : Byte) (rest : List Byte) :
    decode (b0 :: b1 :: b2 :: rest) =
      .ok (decodeWindow b0 b1 b2, (b0 :: b1 :: b2 :: rest).drop (lengthOf b0)) := by
  have hl : 1 ≤ lengthOf b0 ∧ lengthOf b0 ≤ 3 := by
    unfold lengthOf
    split
    · omega
    · split <;> omega
  have h : ¬ (b1 :: b2 :: rest).length + 1 < lengthOf b0 := by
    simp only [List.length_cons]
    omega
  simp only [decode, if_neg h]
  obtain ⟨k, hk⟩ : ∃ k, lengthOf b0 = k + 1 := ⟨lengthOf b0 - 1, by omega⟩
  rw [hk]
  rfl

/-! ### The CPU's part -/

theorem cpuStep_idle {s : State} (h : s.halted = true ∨ s.haltWait = true) :
    cpuStep s = .next { s with cycles := 4 } := if_pos h

theorem cpuStep_run {s : State} (h1 : s.halted = false) (h2 : s.haltWait = false) :
    cpuStep s = exec (fetchInstr s) s := if_neg (by simp [h1, h2])

theorem cpuStep_next (s : State) : ∃ t, cpuStep s = .next t ∧ CpuFrame s t := by
  by_cases h : s.halted = true ∨ s.haltWait = true
  · exact ⟨_, cpuStep_idle h, ⟨rfl, rfl, rfl, rfl, rfl, rfl, rfl, rfl, rfl, rfl, rfl, rfl, rfl, id, id,
      .inl rfl, ⟨by simp, by simp, by simp⟩, .inl ⟨rfl, rfl⟩⟩⟩
  · obtain ⟨t, ht, hf⟩ := exec_next (fetchInstr s) s
    exact ⟨t, (if_neg h).trans ht, hf⟩

/-! ### What follows it -/

section
variable (s : State)

@[simp] theorem afterCpu_a : (afterCpu s).a = s.a := by simp [afterCpu]
@[simp] theorem afterCpu_b : (afterCpu s).b = s.b := by simp [afterCpu]
@[simp] theorem afterCpu_c : (afterCpu s).c = s.c := by simp [afterCpu]
@[simp] theorem afterCpu_d : (afterCpu s).d = s.d := by simp [afterCpu]
@[simp] theorem afterCpu_e : (afterCpu s).e = s.e := by simp [afterCpu]
@[simp] theorem afterCpu_h : (afterCpu s).h = s.h := by simp [afterCpu]
@[simp] theorem afterCpu_l : (afterCpu s).l = s.l := by simp [afterCpu]
@[simp] theorem afterCpu_flags : (afterCpu s).flags = s.flags := by simp [afterCpu]
@[simp] theorem afterCpu_halted : (afterCpu s).halted = s.halted := by simp [afterCpu]
@[simp] theorem afterCpu_fault : (afterCpu s).fault = s.fault := by simp [afterCpu]
@[simp] theorem afterCpu_cycles : (afterCpu s).cycles = s.cycles := by simp [afterCpu]
@[simp] theorem afterCpu_cart : (afterCpu s).cart = s.cart := by simp [afterCpu]
@[simp] theorem afterCpu_bootRom : (afterCpu s).bootRom = s.bootRom := by simp [afterCpu]

end

theorem afterCpu_pc (s : State) : (afterCpu s).pc = (serviceInterrupts s).pc := by simp [afterCpu]

theorem afterCpu_sp (s : State) : (afterCpu s).sp = (serviceInterrupts s).sp := by simp [afterCpu]

theorem afterCpu_ime (s : State) : (afterCpu s).ime = (serviceInterrupts s).ime := by simp [afterCpu]

theorem afterCpu_haltWait (s : State) : (afterCpu s).haltWait = (serviceInterrupts s).haltWait := by simp [afterCpu]

theorem afterCpu_div16 (s : State) :
    (afterCpu s).div16 = (serviceInterrupts s).div16 + BitVec.ofNat 16 s.cycles := by simp [afterCpu]

theorem afterCpu_ok {s : State} (h : MemOk s.mem) : MemOk (afterCpu s).mem :=
  frameAccount_ok _ (ppuUpdate_ok _ (timerTick_ok _ (serviceInterrupts_ok h)))

theorem afterCpu_bootMapped {s : State} (h : s.bootMapped = false) : (afterCpu s).bootMapped = false := by
  simpa [afterCpu] using serviceInterrupts_bootMapped h

/-! ### The step -/

theorem step_of_cpuStep {s t : State} (h : cpuStep s = .next t) : step s = .next (afterCpu t) := by
  simp only [step, consoleStep, h]

/-- Everything a step can do: the CPU's part answers, and the rest follows it. -/
theorem step_cases {s t' : State} (h : step s = .next t') :
    ∃ t, cpuStep s = .next t ∧ CpuFrame s t ∧ t' = afterCpu t := by
  obtain ⟨t, ht, hf⟩ := cpuStep_next s
  rw [step_of_cpuStep ht] at h
  cases h
  exact ⟨t, ht, hf, rfl⟩

end Sys2Proof.Machine
end

