-- ==== Sys2Proof/Tests/Slice0.lean ====
section
/-! SUPPORT. Tests. Expected results come from the spec: the worked example in each instruction's rule (a test named
`test_R<n>` is the example of R<n>), 95_test_vectors.md, or a rule by hand; then, for each statement for the provers, a
witness that its hypotheses can be met. -/

namespace Sys2Proof.Tests

open Sys2Proof.Machine

/-! ### Well-formed instructions -/

/-- The one ill-formed term: the prefix byte as an instruction of its own (R276; log 8). Every other operand is in range by
its type. -/
theorem test_wellFormed_refuses_prefix :
    (Instr.prefixCb 0x00).wellFormed = false ∧ (Instr.prefixCb 0xFF).wellFormed = false := by
  decide

theorem test_wellFormed_accepts :
    (Instr.setBR 7 .a).wellFormed = true ∧ (Instr.stop 0xFF).wellFormed = true ∧ Instr.illegalFD.wellFormed = true := by
  decide

/-! ### Decoding: a word for every constructor, written out from the spec's encoding of it -/

/-- Encodings of R140 to R152. -/
theorem test_decode_loads8_1 :
    decodeWindow 0b01010101 0x55 0x55 = .ldRR .d .l ∧
    decodeWindow 0b00010110 0x9A 0x55 = .ldRN .d 0x9A ∧
    decodeWindow 0b01010110 0x55 0x55 = .ldRHl .d ∧
    decodeWindow 0b01110101 0x55 0x55 = .ldHlR .l ∧
    decodeWindow 0b00110110 0x9A 0x55 = .ldHlN 0x9A ∧
    decodeWindow 0b00001010 0x55 0x55 = .ldABc ∧
    decodeWindow 0b00011010 0x55 0x55 = .ldADe ∧
    decodeWindow 0b00000010 0x55 0x55 = .ldBcA ∧
    decodeWindow 0b00010010 0x55 0x55 = .ldDeA ∧
    decodeWindow 0b11111010 0x23 0x81 = .ldANn 0x8123 ∧
    decodeWindow 0b11101010 0x23 0x81 = .ldNnA 0x8123 ∧
    decodeWindow 0b11110010 0x55 0x55 = .ldhAC ∧
    decodeWindow 0b11100010 0x55 0x55 = .ldhCA := by
  decide

/-- Encodings of R153 to R158. -/
theorem test_decode_loads8_2 :
    decodeWindow 0b11110000 0x9A 0x55 = .ldhAN 0x9A ∧
    decodeWindow 0b11100000 0x9A 0x55 = .ldhNA 0x9A ∧
    decodeWindow 0b00111010 0x55 0x55 = .ldAHld ∧
    decodeWindow 0b00110010 0x55 0x55 = .ldHldA ∧
    decodeWindow 0b00101010 0x55 0x55 = .ldAHli ∧
    decodeWindow 0b00100010 0x55 0x55 = .ldHliA := by
  decide

/-- Encodings of R160 to R167. -/
theorem test_decode_loads16 :
    decodeWindow 0b00100001 0x23 0x81 = .ldRrNn .hl 0x8123 ∧
    decodeWindow 0b00001000 0x23 0x81 = .ldNnSp 0x8123 ∧
    decodeWindow 0b11111001 0x55 0x55 = .ldSpHl ∧
    decodeWindow 0b11111000 0x9A 0x55 = .ldHlSpE 0x9A ∧
    decodeWindow 0b11010101 0x55 0x55 = .pushRr .de ∧
    decodeWindow 0b11110101 0x55 0x55 = .pushAf ∧
    decodeWindow 0b11010001 0x55 0x55 = .popRr .de ∧
    decodeWindow 0b11110001 0x55 0x55 = .popAf := by
  decide

/-- Encodings of R173 to R185. -/
theorem test_decode_alu8_1 :
    decodeWindow 0b10000101 0x55 0x55 = .addR .l ∧
    decodeWindow 0b10000110 0x55 0x55 = .addHl ∧
    decodeWindow 0b11000110 0x9A 0x55 = .addN 0x9A ∧
    decodeWindow 0b10001101 0x55 0x55 = .adcR .l ∧
    decodeWindow 0b10001110 0x55 0x55 = .adcHl ∧
    decodeWindow 0b11001110 0x9A 0x55 = .adcN 0x9A ∧
    decodeWindow 0b10010101 0x55 0x55 = .subR .l ∧
    decodeWindow 0b10010110 0x55 0x55 = .subHl ∧
    decodeWindow 0b11010110 0x9A 0x55 = .subN 0x9A ∧
    decodeWindow 0b10011101 0x55 0x55 = .sbcR .l ∧
    decodeWindow 0b10011110 0x55 0x55 = .sbcHl ∧
    decodeWindow 0b11011110 0x9A 0x55 = .sbcN 0x9A ∧
    decodeWindow 0b10100101 0x55 0x55 = .andR .l := by
  decide

/-- Encodings of R186 to R198. -/
theorem test_decode_alu8_2 :
    decodeWindow 0b10100110 0x55 0x55 = .andHl ∧
    decodeWindow 0b11100110 0x9A 0x55 = .andN 0x9A ∧
    decodeWindow 0b10101101 0x55 0x55 = .xorR .l ∧
    decodeWindow 0b10101110 0x55 0x55 = .xorHl ∧
    decodeWindow 0b11101110 0x9A 0x55 = .xorN 0x9A ∧
    decodeWindow 0b10110101 0x55 0x55 = .orR .l ∧
    decodeWindow 0b10110110 0x55 0x55 = .orHl ∧
    decodeWindow 0b11110110 0x9A 0x55 = .orN 0x9A ∧
    decodeWindow 0b10111101 0x55 0x55 = .cpR .l ∧
    decodeWindow 0b10111110 0x55 0x55 = .cpHl ∧
    decodeWindow 0b11111110 0x9A 0x55 = .cpN 0x9A ∧
    decodeWindow 0b00010100 0x55 0x55 = .incR .d ∧
    decodeWindow 0b00110100 0x55 0x55 = .incHl := by
  decide

/-- Encodings of R199 to R204. -/
theorem test_decode_alu8_3 :
    decodeWindow 0b00010101 0x55 0x55 = .decR .d ∧
    decodeWindow 0b00110101 0x55 0x55 = .decHl ∧
    decodeWindow 0b00100111 0x55 0x55 = .daa ∧
    decodeWindow 0b00101111 0x55 0x55 = .cpl ∧
    decodeWindow 0b00110111 0x55 0x55 = .scf ∧
    decodeWindow 0b00111111 0x55 0x55 = .ccf := by
  decide

/-- Encodings of R210 to R213. -/
theorem test_decode_alu16 :
    decodeWindow 0b00101001 0x55 0x55 = .addHlRr .hl ∧
    decodeWindow 0b00100011 0x55 0x55 = .incRr .hl ∧
    decodeWindow 0b00101011 0x55 0x55 = .decRr .hl ∧
    decodeWindow 0b11101000 0x9A 0x55 = .addSpE 0x9A := by
  decide

/-- Encodings of R221 to R233. -/
theorem test_decode_rotates_1 :
    decodeWindow 0b00000111 0x55 0x55 = .rlca ∧
    decodeWindow 0b00010111 0x55 0x55 = .rla ∧
    decodeWindow 0b00001111 0x55 0x55 = .rrca ∧
    decodeWindow 0b00011111 0x55 0x55 = .rra ∧
    decodeWindow 0b11001011 0b00000101 0x55 = .rlcR .l ∧
    decodeWindow 0b11001011 0b00000110 0x55 = .rlcHl ∧
    decodeWindow 0b11001011 0b00001101 0x55 = .rrcR .l ∧
    decodeWindow 0b11001011 0b00001110 0x55 = .rrcHl ∧
    decodeWindow 0b11001011 0b00010101 0x55 = .rlR .l ∧
    decodeWindow 0b11001011 0b00010110 0x55 = .rlHl ∧
    decodeWindow 0b11001011 0b00011101 0x55 = .rrR .l ∧
    decodeWindow 0b11001011 0b00011110 0x55 = .rrHl ∧
    decodeWindow 0b11001011 0b00100101 0x55 = .slaR .l := by
  decide

/-- Encodings of R234 to R246. -/
theorem test_decode_rotates_2 :
    decodeWindow 0b11001011 0b00100110 0x55 = .slaHl ∧
    decodeWindow 0b11001011 0b00101101 0x55 = .sraR .l ∧
    decodeWindow 0b11001011 0b00101110 0x55 = .sraHl ∧
    decodeWindow 0b11001011 0b00110101 0x55 = .swapR .l ∧
    decodeWindow 0b11001011 0b00110110 0x55 = .swapHl ∧
    decodeWindow 0b11001011 0b00111101 0x55 = .srlR .l ∧
    decodeWindow 0b11001011 0b00111110 0x55 = .srlHl ∧
    decodeWindow 0b11001011 0b01101101 0x55 = .bitBR 5 .l ∧
    decodeWindow 0b11001011 0b01101110 0x55 = .bitBHl 5 ∧
    decodeWindow 0b11001011 0b10101101 0x55 = .resBR 5 .l ∧
    decodeWindow 0b11001011 0b10101110 0x55 = .resBHl 5 ∧
    decodeWindow 0b11001011 0b11101101 0x55 = .setBR 5 .l ∧
    decodeWindow 0b11001011 0b11101110 0x55 = .setBHl 5 := by
  decide

/-- Encodings of R250 to R260. -/
theorem test_decode_flow :
    decodeWindow 0b11000011 0x23 0x81 = .jpNn 0x8123 ∧
    decodeWindow 0b11010010 0x23 0x81 = .jpCcNn .nc 0x8123 ∧
    decodeWindow 0b11101001 0x55 0x55 = .jpHl ∧
    decodeWindow 0b00011000 0x9A 0x55 = .jrE 0x9A ∧
    decodeWindow 0b00110000 0x9A 0x55 = .jrCcE .nc 0x9A ∧
    decodeWindow 0b11001101 0x23 0x81 = .callNn 0x8123 ∧
    decodeWindow 0b11010100 0x23 0x81 = .callCcNn .nc 0x8123 ∧
    decodeWindow 0b11001001 0x55 0x55 = .ret ∧
    decodeWindow 0b11010000 0x55 0x55 = .retCc .nc ∧
    decodeWindow 0b11011001 0x55 0x55 = .reti ∧
    decodeWindow 0b11011111 0x55 0x55 = .rstT 3 := by
  decide

/-- Encodings of R271 to R274. -/
theorem test_decode_control :
    decodeWindow 0b00000000 0x55 0x55 = .nop ∧
    decodeWindow 0b01110110 0x55 0x55 = .halt ∧
    decodeWindow 0b11111011 0x55 0x55 = .ei ∧
    decodeWindow 0b11110011 0x55 0x55 = .di := by
  decide

/-- Encodings of R275 and R277. -/
theorem test_decode_stop_illegal :
    decodeWindow 0b00010000 0x9A 0x55 = .stop 0x9A ∧
    decodeWindow 0xD3 0x55 0x55 = .illegalD3 ∧
    decodeWindow 0xDB 0x55 0x55 = .illegalDB ∧
    decodeWindow 0xDD 0x55 0x55 = .illegalDD ∧
    decodeWindow 0xE3 0x55 0x55 = .illegalE3 ∧
    decodeWindow 0xE4 0x55 0x55 = .illegalE4 ∧
    decodeWindow 0xEB 0x55 0x55 = .illegalEB ∧
    decodeWindow 0xEC 0x55 0x55 = .illegalEC ∧
    decodeWindow 0xED 0x55 0x55 = .illegalED ∧
    decodeWindow 0xF4 0x55 0x55 = .illegalF4 ∧
    decodeWindow 0xFC 0x55 0x55 = .illegalFC ∧
    decodeWindow 0xFD 0x55 0x55 = .illegalFD := by
  decide

/-- The overlaps of R124: the more specific row wins. -/
theorem test_decode_overlaps :
    decodeWindow 0x76 0 0 = .halt ∧ decodeWindow 0x7E 0 0 = .ldRHl .a ∧ decodeWindow 0x70 0 0 = .ldHlR .b ∧
    decodeWindow 0x36 0 0 = .ldHlN 0 ∧ decodeWindow 0x34 0 0 = .incHl ∧ decodeWindow 0xBE 0 0 = .cpHl ∧
    decodeWindow 0xF5 0 0 = .pushAf ∧ decodeWindow 0xF1 0 0 = .popAf ∧ decodeWindow 0xCB 0x7E 0 = .bitBHl 7 := by
  decide

/-- Too few bytes are refused, by name. -/
theorem test_decode_too_short :
    (match decode [0xC3, 0x00] with | .error (.truncated op) => op = 0xC3 | _ => False) ∧
    (match decode [] with | .error .noBytes => True | _ => False) := by
  exact ⟨rfl, trivial⟩

/-- The table's numbering: the second byte is bits 15 to 8, and operand bytes the table gives no bits are 0 (log 11). -/
theorem test_decodeTableWord :
    decodeTableWord 8 0x08 = some (.ldNnSp 0) ∧ decodeTableWord 16 0x46CB = some (.bitBHl 0) ∧
    decodeTableWord 8 0x3E = some (.ldRN .a 0) ∧ decodeTableWord 8 0xCB = some (.rlcR .b) ∧
    decodeTableWord 8 0xD3 = some .illegalD3 := by
  decide

/-! ### One step of the CPU: the worked example of each instruction rule -/

/-- A two-bank cartridge with these bytes at 0x0100. -/
def cartWith (bs : List Byte) : RomImage :=
  { length := 0x8000, bytes := (bs.zipIdx 0x100).filterMap fun p => if p.1 = 0 then none else some (p.2, p.1) }

/-- `s` with that cartridge, after one `CpuStep`. -/
def ran (s : State) (bs : List Byte) : State :=
  match cpuStep { s with cart := some (cartWith bs) } with
  | .next t => t
  | _ => s

/-- `s` after one step. -/
def stepped (s : State) : State :=
  match step s with
  | .next t => t
  | _ => s

theorem test_R140 : let t := ran { State.reset with a := 0x5A, b := 0x00 } [0x47]
    t.flags = ⟨true, false, true, true⟩ ∧ t.b = 0x5A ∧ t.a = 0x5A ∧ t.pc = 0x0101 ∧ t.cycles = 4 := by
  decide

theorem test_R141 : let t := ran State.reset [0x06, 0x42]
    t.flags = ⟨true, false, true, true⟩ ∧ t.b = 0x42 ∧ t.pc = 0x0102 ∧ t.cycles = 8 := by
  decide

theorem test_R142 : let t := ran (poke { State.reset with h := 0xC0, l := 0x00 } 0xC000 0x99) [0x7E]
    t.flags = ⟨true, false, true, true⟩ ∧ t.a = 0x99 ∧ t.h = 0xC0 ∧ t.l = 0x00 ∧ t.pc = 0x0101 ∧ t.cycles = 8 := by
  decide

theorem test_R143 : let t := ran { State.reset with h := 0xC0, l := 0x10, b := 0x77 } [0x70]
    t.flags = ⟨true, false, true, true⟩ ∧ peek t 0xC010 = 0x77 ∧ memRead t 0xE010 = 0x77 ∧ t.pc = 0x0101 ∧
      t.cycles = 8 := by
  decide

theorem test_R144 : let t := ran { State.reset with h := 0xC0, l := 0x20 } [0x36, 0xAB]
    t.flags = ⟨true, false, true, true⟩ ∧ peek t 0xC020 = 0xAB ∧ t.pc = 0x0102 ∧ t.cycles = 12 := by
  decide

theorem test_R145 : let t := ran (poke { State.reset with b := 0xC0, c := 0x01 } 0xC001 0x3C) [0x0A]
    t.flags = ⟨true, false, true, true⟩ ∧ t.a = 0x3C ∧ t.pc = 0x0101 ∧ t.cycles = 8 := by
  decide

theorem test_R146 : let t := ran (poke { State.reset with d := 0xC0, e := 0x02 } 0xC002 0x3D) [0x1A]
    t.flags = ⟨true, false, true, true⟩ ∧ t.a = 0x3D ∧ t.pc = 0x0101 ∧ t.cycles = 8 := by
  decide

theorem test_R147 : let t := ran { State.reset with b := 0xC0, c := 0x03, a := 0x11 } [0x02]
    t.flags = ⟨true, false, true, true⟩ ∧ peek t 0xC003 = 0x11 ∧ t.pc = 0x0101 ∧ t.cycles = 8 := by
  decide

theorem test_R148 : let t := ran { State.reset with d := 0xC0, e := 0x04, a := 0x22 } [0x12]
    t.flags = ⟨true, false, true, true⟩ ∧ peek t 0xC004 = 0x22 ∧ t.pc = 0x0101 ∧ t.cycles = 8 := by
  decide

theorem test_R149 : let t := ran (poke State.reset 0xC134 0x5E) [0xFA, 0x34, 0xC1]
    t.flags = ⟨true, false, true, true⟩ ∧ t.a = 0x5E ∧ t.pc = 0x0103 ∧ t.cycles = 16 := by
  decide

theorem test_R150 : let t := ran { State.reset with a := 0x42 } [0xEA, 0x50, 0xE0]
    t.flags = ⟨true, false, true, true⟩ ∧ peek t 0xC050 = 0x42 ∧ memRead t 0xE050 = 0x42 ∧ t.pc = 0x0103 ∧
      t.cycles = 16 := by
  decide

theorem test_R151 : let t := ran (poke { State.reset with c := 0x80 } 0xFF80 0x6A) [0xF2]
    t.flags = ⟨true, false, true, true⟩ ∧ t.a = 0x6A ∧ t.pc = 0x0101 ∧ t.cycles = 8 := by
  decide

theorem test_R152 : let t := ran { State.reset with c := 0x81, a := 0x5B } [0xE2]
    t.flags = ⟨true, false, true, true⟩ ∧ peek t 0xFF81 = 0x5B ∧ t.pc = 0x0101 ∧ t.cycles = 8 := by
  decide

theorem test_R153 : let t := ran State.reset [0xF0, 0x00]
    t.flags = ⟨true, false, true, true⟩ ∧ t.a = 0xCF ∧ t.pc = 0x0102 ∧ t.cycles = 12 := by
  decide

theorem test_R154 : let t := ran { State.reset with a := 0x99 } [0xE0, 0x04]
    t.flags = ⟨true, false, true, true⟩ ∧ t.pc = 0x0102 ∧ t.cycles = 12 := by
  decide

theorem test_R155 : let t := ran (poke { State.reset with h := 0xC0, l := 0x00 } 0xC000 0x12) [0x3A]
    t.flags = ⟨true, false, true, true⟩ ∧ t.a = 0x12 ∧ t.h = 0xBF ∧ t.l = 0xFF ∧ t.pc = 0x0101 ∧ t.cycles = 8 := by
  decide

theorem test_R156 : let t := ran { State.reset with h := 0xC0, l := 0x05, a := 0x66 } [0x32]
    t.flags = ⟨true, false, true, true⟩ ∧ peek t 0xC005 = 0x66 ∧ t.h = 0xC0 ∧ t.l = 0x04 ∧ t.pc = 0x0101 ∧
      t.cycles = 8 := by
  decide

theorem test_R157 : let t := ran (poke { State.reset with h := 0xFF, l := 0xFF } 0xFFFF 0x1F) [0x2A]
    t.flags = ⟨true, false, true, true⟩ ∧ t.a = 0x1F ∧ t.h = 0x00 ∧ t.l = 0x00 ∧ t.pc = 0x0101 ∧ t.cycles = 8 := by
  decide

theorem test_R158 : let t := ran { State.reset with h := 0x80, l := 0x00, a := 0xFF } [0x22]
    t.flags = ⟨true, false, true, true⟩ ∧ peek t 0x8000 = 0xFF ∧ t.h = 0x80 ∧ t.l = 0x01 ∧ t.pc = 0x0101 ∧
      t.cycles = 8 := by
  decide

theorem test_R160 : let t := ran State.reset [0x21, 0x34, 0x12]
    t.flags = ⟨true, false, true, true⟩ ∧ t.h = 0x12 ∧ t.l = 0x34 ∧ t.pc = 0x0103 ∧ t.cycles = 12 := by
  decide

theorem test_R161 : let t := ran { State.reset with sp := 0xFFF8 } [0x08, 0x00, 0xC1]
    t.flags = ⟨true, false, true, true⟩ ∧ peek t 0xC100 = 0xF8 ∧ peek t 0xC101 = 0xFF ∧ t.sp = 0xFFF8 ∧
      t.pc = 0x0103 ∧ t.cycles = 20 := by
  decide

theorem test_R162 : let t := ran { State.reset with h := 0xD0, l := 0x00 } [0xF9]
    t.flags = ⟨true, false, true, true⟩ ∧ t.sp = 0xD000 ∧ t.pc = 0x0101 ∧ t.cycles = 8 := by
  decide

theorem test_R163 : let t := ran { State.reset with sp := 0x0001 } [0xF8, 0xFF]
    t.flags = ⟨false, false, true, true⟩ ∧ t.h = 0x00 ∧ t.l = 0x00 ∧ t.sp = 0x0001 ∧ t.pc = 0x0102 ∧
      t.cycles = 12 := by
  decide

theorem test_R164 : let t := ran { State.reset with b := 0x12, c := 0x34, sp := 0xFFFE } [0xC5]
    t.flags = ⟨true, false, true, true⟩ ∧ peek t 0xFFFD = 0x12 ∧ peek t 0xFFFC = 0x34 ∧ t.sp = 0xFFFC ∧
      t.pc = 0x0101 ∧ t.cycles = 16 := by
  decide

theorem test_R165 : let t := ran { State.reset with a := 0x12, flags := ⟨true, false, true, false⟩ } [0xF5]
    t.flags = ⟨true, false, true, false⟩ ∧ peek t 0xFFFD = 0x12 ∧ peek t 0xFFFC = 0xA0 ∧ t.sp = 0xFFFC ∧
      t.pc = 0x0101 ∧ t.cycles = 16 := by
  decide

theorem test_R166 : let t := ran (poke (poke { State.reset with sp := 0xC000 } 0xC000 0xCD) 0xC001 0xAB) [0xD1]
    t.flags = ⟨true, false, true, true⟩ ∧ t.d = 0xAB ∧ t.e = 0xCD ∧ t.sp = 0xC002 ∧ t.pc = 0x0101 ∧
      t.cycles = 12 := by
  decide

theorem test_R167 :
    let t := ran (poke (poke { State.reset with sp := 0xC000, a := 0x00, flags := ⟨false, false, false, false⟩ } 0xC000 0xFF) 0xC001 0x9A)
      [0xF1]
    t.flags = ⟨true, true, true, true⟩ ∧ t.a = 0x9A ∧ t.sp = 0xC002 ∧ t.pc = 0x0101 ∧ t.cycles = 12 := by
  decide

theorem test_R173 : let t := ran { State.reset with a := 0x3A, b := 0xC6 } [0x80]
    t.flags = ⟨true, false, true, true⟩ ∧ t.a = 0x00 ∧ t.pc = 0x0101 ∧ t.cycles = 4 := by
  decide

theorem test_R174 : let t := ran (poke { State.reset with a := 0x3C, h := 0xC0, l := 0x00 } 0xC000 0x12) [0x86]
    t.flags = ⟨false, false, false, false⟩ ∧ t.a = 0x4E ∧ t.pc = 0x0101 ∧ t.cycles = 8 := by
  decide

theorem test_R175 : let t := ran { State.reset with a := 0x3C } [0xC6, 0xFF]
    t.flags = ⟨false, false, true, true⟩ ∧ t.a = 0x3B ∧ t.pc = 0x0102 ∧ t.cycles = 8 := by
  decide

theorem test_R176 :
    let t := ran { State.reset with a := 0xE1, e := 0x0F, flags := ⟨true, false, true, true⟩ }
      [0x8B]
    t.flags = ⟨false, false, true, false⟩ ∧ t.a = 0xF1 ∧ t.pc = 0x0101 ∧ t.cycles = 4 := by
  decide

theorem test_R177 :
    let t := ran (poke { State.reset with a := 0xE1, h := 0xC0, l := 0x00, flags := ⟨true, false, true, true⟩ } 0xC000 0x1E)
      [0x8E]
    t.flags = ⟨true, false, true, true⟩ ∧ t.a = 0x00 ∧ t.pc = 0x0101 ∧ t.cycles = 8 := by
  decide

theorem test_R178 : let t := ran { State.reset with a := 0xE1, flags := ⟨true, false, true, true⟩ } [0xCE, 0x3B]
    t.flags = ⟨false, false, false, true⟩ ∧ t.a = 0x1D ∧ t.pc = 0x0102 ∧ t.cycles = 8 := by
  decide

theorem test_R179 : let t := ran { State.reset with a := 0x3E, e := 0x3E } [0x93]
    t.flags = ⟨true, true, false, false⟩ ∧ t.a = 0x00 ∧ t.pc = 0x0101 ∧ t.cycles = 4 := by
  decide

theorem test_R180 : let t := ran (poke { State.reset with a := 0x3E, h := 0xC0, l := 0x00 } 0xC000 0x40) [0x96]
    t.flags = ⟨false, true, false, true⟩ ∧ t.a = 0xFE ∧ t.pc = 0x0101 ∧ t.cycles = 8 := by
  decide

theorem test_R181 : let t := ran { State.reset with a := 0x3E } [0xD6, 0x0F]
    t.flags = ⟨false, true, true, false⟩ ∧ t.a = 0x2F ∧ t.pc = 0x0102 ∧ t.cycles = 8 := by
  decide

theorem test_R182 :
    let t := ran { State.reset with a := 0x3B, h := 0x2A, flags := ⟨true, false, true, true⟩ }
      [0x9C]
    t.flags = ⟨false, true, false, false⟩ ∧ t.a = 0x10 ∧ t.pc = 0x0101 ∧ t.cycles = 4 := by
  decide

theorem test_R183 :
    let t := ran (poke { State.reset with a := 0x3B, h := 0xC0, l := 0x00, flags := ⟨true, false, true, true⟩ } 0xC000 0x4F)
      [0x9E]
    t.flags = ⟨false, true, true, true⟩ ∧ t.a = 0xEB ∧ t.pc = 0x0101 ∧ t.cycles = 8 := by
  decide

theorem test_R184 : let t := ran { State.reset with a := 0x3B, flags := ⟨true, false, true, true⟩ } [0xDE, 0x3A]
    t.flags = ⟨true, true, false, false⟩ ∧ t.a = 0x00 ∧ t.pc = 0x0102 ∧ t.cycles = 8 := by
  decide

theorem test_R185 : let t := ran { State.reset with a := 0x5A, l := 0x3F } [0xA5]
    t.flags = ⟨false, false, true, false⟩ ∧ t.a = 0x1A ∧ t.pc = 0x0101 ∧ t.cycles = 4 := by
  decide

theorem test_R186 : let t := ran { State.reset with a := 0x5A, h := 0xC0, l := 0x00 } [0xA6]
    t.flags = ⟨true, false, true, false⟩ ∧ t.a = 0x00 ∧ t.pc = 0x0101 ∧ t.cycles = 8 := by
  decide

theorem test_R187 : let t := ran { State.reset with a := 0x5A } [0xE6, 0x38]
    t.flags = ⟨false, false, true, false⟩ ∧ t.a = 0x18 ∧ t.pc = 0x0102 ∧ t.cycles = 8 := by
  decide

theorem test_R188 : let t := ran { State.reset with a := 0xFF } [0xAF]
    t.flags = ⟨true, false, false, false⟩ ∧ t.a = 0x00 ∧ t.pc = 0x0101 ∧ t.cycles = 4 := by
  decide

theorem test_R189 : let t := ran (poke { State.reset with a := 0xFF, h := 0xC0, l := 0x00 } 0xC000 0x8A) [0xAE]
    t.flags = ⟨false, false, false, false⟩ ∧ t.a = 0x75 ∧ t.pc = 0x0101 ∧ t.cycles = 8 := by
  decide

theorem test_R190 : let t := ran { State.reset with a := 0xFF } [0xEE, 0x0F]
    t.flags = ⟨false, false, false, false⟩ ∧ t.a = 0xF0 ∧ t.pc = 0x0102 ∧ t.cycles = 8 := by
  decide

theorem test_R191 : let t := ran { State.reset with a := 0x5A } [0xB7]
    t.flags = ⟨false, false, false, false⟩ ∧ t.a = 0x5A ∧ t.pc = 0x0101 ∧ t.cycles = 4 := by
  decide

theorem test_R192 : let t := ran (poke { State.reset with a := 0x5A, h := 0xC0, l := 0x00 } 0xC000 0x0F) [0xB6]
    t.flags = ⟨false, false, false, false⟩ ∧ t.a = 0x5F ∧ t.pc = 0x0101 ∧ t.cycles = 8 := by
  decide

theorem test_R193 : let t := ran { State.reset with a := 0x00 } [0xF6, 0x00]
    t.flags = ⟨true, false, false, false⟩ ∧ t.a = 0x00 ∧ t.pc = 0x0102 ∧ t.cycles = 8 := by
  decide

theorem test_R194 : let t := ran { State.reset with a := 0x3C, b := 0x2F } [0xB8]
    t.flags = ⟨false, true, true, false⟩ ∧ t.a = 0x3C ∧ t.pc = 0x0101 ∧ t.cycles = 4 := by
  decide

theorem test_R195 : let t := ran (poke { State.reset with a := 0x3C, h := 0xC0, l := 0x00 } 0xC000 0x40) [0xBE]
    t.flags = ⟨false, true, false, true⟩ ∧ t.a = 0x3C ∧ t.pc = 0x0101 ∧ t.cycles = 8 := by
  decide

theorem test_R196 : let t := ran { State.reset with a := 0x3C } [0xFE, 0x3C]
    t.flags = ⟨true, true, false, false⟩ ∧ t.a = 0x3C ∧ t.pc = 0x0102 ∧ t.cycles = 8 := by
  decide

theorem test_R197 : let t := ran { State.reset with a := 0xFF, flags := ⟨false, false, true, false⟩ } [0x3C]
    t.flags = ⟨true, false, true, false⟩ ∧ t.a = 0x00 ∧ t.pc = 0x0101 ∧ t.cycles = 4 := by
  decide

theorem test_R198 :
    let t := ran (poke { State.reset with h := 0xC0, l := 0x00, flags := ⟨true, false, true, true⟩ } 0xC000 0x4F)
      [0x34]
    t.flags = ⟨false, false, true, true⟩ ∧ peek t 0xC000 = 0x50 ∧ t.pc = 0x0101 ∧ t.cycles = 12 := by
  decide

theorem test_R199 : let t := ran { State.reset with b := 0x01, flags := ⟨true, false, true, true⟩ } [0x05]
    t.flags = ⟨true, true, false, true⟩ ∧ t.b = 0x00 ∧ t.pc = 0x0101 ∧ t.cycles = 4 := by
  decide

theorem test_R200 :
    let t := ran { State.reset with h := 0xC0, l := 0x00, flags := ⟨true, false, true, false⟩ }
      [0x35]
    t.flags = ⟨false, true, true, false⟩ ∧ peek t 0xC000 = 0xFF ∧ t.pc = 0x0101 ∧ t.cycles = 12 := by
  decide

theorem test_R201 : let t := ran { State.reset with a := 0x7D, flags := ⟨false, false, false, false⟩ } [0x27]
    t.flags = ⟨false, false, false, false⟩ ∧ t.a = 0x83 ∧ t.pc = 0x0101 ∧ t.cycles = 4 := by
  decide

theorem test_R202 : let t := ran { State.reset with a := 0x35, flags := ⟨false, false, false, false⟩ } [0x2F]
    t.flags = ⟨false, true, true, false⟩ ∧ t.a = 0xCA ∧ t.pc = 0x0101 ∧ t.cycles = 4 := by
  decide

theorem test_R203 : let t := ran { State.reset with flags := ⟨true, true, true, false⟩ } [0x37]
    t.flags = ⟨true, false, false, true⟩ ∧ t.pc = 0x0101 ∧ t.cycles = 4 := by
  decide

theorem test_R204 : let t := ran { State.reset with flags := ⟨false, true, true, true⟩ } [0x3F]
    t.flags = ⟨false, false, false, false⟩ ∧ t.pc = 0x0101 ∧ t.cycles = 4 := by
  decide

theorem test_R210 :
    let t := ran { State.reset with h := 0x8A, l := 0x23, b := 0x06, c := 0x05, flags := ⟨true, true, false, false⟩ }
      [0x09]
    t.flags = ⟨true, false, true, false⟩ ∧ t.h = 0x90 ∧ t.l = 0x28 ∧ t.pc = 0x0101 ∧ t.cycles = 8 := by
  decide

theorem test_R211 :
    let t := ran { State.reset with d := 0xFF, e := 0xFF, flags := ⟨false, false, true, true⟩ }
      [0x13]
    t.flags = ⟨false, false, true, true⟩ ∧ t.d = 0x00 ∧ t.e = 0x00 ∧ t.pc = 0x0101 ∧ t.cycles = 8 := by
  decide

theorem test_R212 :
    let t := ran { State.reset with b := 0x00, c := 0x01, flags := ⟨false, false, true, true⟩ }
      [0x0B]
    t.flags = ⟨false, false, true, true⟩ ∧ t.b = 0x00 ∧ t.c = 0x00 ∧ t.pc = 0x0101 ∧ t.cycles = 8 := by
  decide

theorem test_R213 : let t := ran { State.reset with sp := 0xFFFE } [0xE8, 0xFE]
    t.flags = ⟨false, false, true, true⟩ ∧ t.sp = 0xFFFC ∧ t.pc = 0x0102 ∧ t.cycles = 16 := by
  decide

theorem test_R221 : let t := ran { State.reset with a := 0x85, flags := ⟨true, true, true, false⟩ } [0x07]
    t.flags = ⟨false, false, false, true⟩ ∧ t.a = 0x0B ∧ t.pc = 0x0101 ∧ t.cycles = 4 := by
  decide

theorem test_R222 : let t := ran { State.reset with a := 0x95, flags := ⟨true, true, true, true⟩ } [0x17]
    t.flags = ⟨false, false, false, true⟩ ∧ t.a = 0x2B ∧ t.pc = 0x0101 ∧ t.cycles = 4 := by
  decide

theorem test_R223 : let t := ran { State.reset with a := 0x3B, flags := ⟨true, true, true, false⟩ } [0x0F]
    t.flags = ⟨false, false, false, true⟩ ∧ t.a = 0x9D ∧ t.pc = 0x0101 ∧ t.cycles = 4 := by
  decide

theorem test_R224 : let t := ran { State.reset with a := 0x81, flags := ⟨true, true, true, false⟩ } [0x1F]
    t.flags = ⟨false, false, false, true⟩ ∧ t.a = 0x40 ∧ t.pc = 0x0101 ∧ t.cycles = 4 := by
  decide

theorem test_R225 : let t := ran { State.reset with b := 0x85, flags := ⟨true, true, true, false⟩ } [0xCB, 0x00]
    t.flags = ⟨false, false, false, true⟩ ∧ t.b = 0x0B ∧ t.pc = 0x0102 ∧ t.cycles = 8 := by
  decide

theorem test_R226 :
    let t := ran { State.reset with h := 0xC0, l := 0x00, flags := ⟨true, false, true, true⟩ }
      [0xCB, 0x06]
    t.flags = ⟨true, false, false, false⟩ ∧ peek t 0xC000 = 0x00 ∧ t.pc = 0x0102 ∧ t.cycles = 16 := by
  decide

theorem test_R227 : let t := ran { State.reset with c := 0x01, flags := ⟨true, true, true, false⟩ } [0xCB, 0x09]
    t.flags = ⟨false, false, false, true⟩ ∧ t.c = 0x80 ∧ t.pc = 0x0102 ∧ t.cycles = 8 := by
  decide

theorem test_R228 :
    let t := ran { State.reset with h := 0xC0, l := 0x00, flags := ⟨true, false, true, true⟩ }
      [0xCB, 0x0E]
    t.flags = ⟨true, false, false, false⟩ ∧ peek t 0xC000 = 0x00 ∧ t.pc = 0x0102 ∧ t.cycles = 16 := by
  decide

theorem test_R229 : let t := ran { State.reset with l := 0x80, flags := ⟨true, true, true, false⟩ } [0xCB, 0x15]
    t.flags = ⟨true, false, false, true⟩ ∧ t.l = 0x00 ∧ t.pc = 0x0102 ∧ t.cycles = 8 := by
  decide

theorem test_R230 :
    let t := ran (poke { State.reset with h := 0xC0, l := 0x00, flags := ⟨true, false, true, true⟩ } 0xC000 0x11)
      [0xCB, 0x16]
    t.flags = ⟨false, false, false, false⟩ ∧ peek t 0xC000 = 0x23 ∧ t.pc = 0x0102 ∧ t.cycles = 16 := by
  decide

theorem test_R231 : let t := ran { State.reset with a := 0x01, flags := ⟨true, true, true, false⟩ } [0xCB, 0x1F]
    t.flags = ⟨true, false, false, true⟩ ∧ t.a = 0x00 ∧ t.pc = 0x0102 ∧ t.cycles = 8 := by
  decide

theorem test_R232 :
    let t := ran (poke { State.reset with h := 0xC0, l := 0x00, flags := ⟨true, false, true, true⟩ } 0xC000 0x8A)
      [0xCB, 0x1E]
    t.flags = ⟨false, false, false, false⟩ ∧ peek t 0xC000 = 0xC5 ∧ t.pc = 0x0102 ∧ t.cycles = 16 := by
  decide

theorem test_R233 : let t := ran { State.reset with d := 0x80, flags := ⟨true, true, true, false⟩ } [0xCB, 0x22]
    t.flags = ⟨true, false, false, true⟩ ∧ t.d = 0x00 ∧ t.pc = 0x0102 ∧ t.cycles = 8 := by
  decide

theorem test_R234 :
    let t := ran (poke { State.reset with h := 0xC0, l := 0x00, flags := ⟨true, false, true, true⟩ } 0xC000 0xFF)
      [0xCB, 0x26]
    t.flags = ⟨false, false, false, true⟩ ∧ peek t 0xC000 = 0xFE ∧ t.pc = 0x0102 ∧ t.cycles = 16 := by
  decide

theorem test_R235 : let t := ran { State.reset with e := 0x8A, flags := ⟨true, true, true, false⟩ } [0xCB, 0x2B]
    t.flags = ⟨false, false, false, false⟩ ∧ t.e = 0xC5 ∧ t.pc = 0x0102 ∧ t.cycles = 8 := by
  decide

theorem test_R236 :
    let t := ran (poke { State.reset with h := 0xC0, l := 0x00, flags := ⟨true, false, true, true⟩ } 0xC000 0x01)
      [0xCB, 0x2E]
    t.flags = ⟨true, false, false, true⟩ ∧ peek t 0xC000 = 0x00 ∧ t.pc = 0x0102 ∧ t.cycles = 16 := by
  decide

theorem test_R237 : let t := ran { State.reset with a := 0xF0, flags := ⟨true, true, true, false⟩ } [0xCB, 0x37]
    t.flags = ⟨false, false, false, false⟩ ∧ t.a = 0x0F ∧ t.pc = 0x0102 ∧ t.cycles = 8 := by
  decide

theorem test_R238 :
    let t := ran { State.reset with h := 0xC0, l := 0x00, flags := ⟨true, false, true, true⟩ }
      [0xCB, 0x36]
    t.flags = ⟨true, false, false, false⟩ ∧ peek t 0xC000 = 0x00 ∧ t.pc = 0x0102 ∧ t.cycles = 16 := by
  decide

theorem test_R239 : let t := ran { State.reset with h := 0x01, flags := ⟨true, true, true, false⟩ } [0xCB, 0x3C]
    t.flags = ⟨true, false, false, true⟩ ∧ t.h = 0x00 ∧ t.pc = 0x0102 ∧ t.cycles = 8 := by
  decide

theorem test_R240 :
    let t := ran (poke { State.reset with h := 0xC0, l := 0x00, flags := ⟨true, false, true, true⟩ } 0xC000 0xFF)
      [0xCB, 0x3E]
    t.flags = ⟨false, false, false, true⟩ ∧ peek t 0xC000 = 0x7F ∧ t.pc = 0x0102 ∧ t.cycles = 16 := by
  decide

theorem test_R241 : let t := ran { State.reset with h := 0x80, flags := ⟨true, true, false, true⟩ } [0xCB, 0x7C]
    t.flags = ⟨false, false, true, true⟩ ∧ t.h = 0x80 ∧ t.pc = 0x0102 ∧ t.cycles = 8 := by
  decide

theorem test_R242 :
    let t := ran (poke { State.reset with h := 0xC0, l := 0x00, flags := ⟨false, false, true, false⟩ } 0xC000 0xFE)
      [0xCB, 0x46]
    t.flags = ⟨true, false, true, false⟩ ∧ t.pc = 0x0102 ∧ t.cycles = 12 := by
  decide

theorem test_R243 : let t := ran { State.reset with a := 0xFF } [0xCB, 0x87]
    t.flags = ⟨true, false, true, true⟩ ∧ t.a = 0xFE ∧ t.pc = 0x0102 ∧ t.cycles = 8 := by
  decide

theorem test_R244 : let t := ran (poke { State.reset with h := 0xC0, l := 0x00 } 0xC000 0xFF) [0xCB, 0xBE]
    t.flags = ⟨true, false, true, true⟩ ∧ peek t 0xC000 = 0x7F ∧ t.pc = 0x0102 ∧ t.cycles = 16 := by
  decide

theorem test_R245 : let t := ran { State.reset with b := 0x00 } [0xCB, 0xD8]
    t.flags = ⟨true, false, true, true⟩ ∧ t.b = 0x08 ∧ t.pc = 0x0102 ∧ t.cycles = 8 := by
  decide

theorem test_R246 : let t := ran { State.reset with h := 0xC0, l := 0x00 } [0xCB, 0xC6]
    t.flags = ⟨true, false, true, true⟩ ∧ peek t 0xC000 = 0x01 ∧ t.pc = 0x0102 ∧ t.cycles = 16 := by
  decide

theorem test_R250 : let t := ran State.reset [0xC3, 0x50, 0x01]
    t.flags = ⟨true, false, true, true⟩ ∧ t.pc = 0x0150 ∧ t.cycles = 16 := by
  decide

theorem test_R251 : let t := ran { State.reset with flags := ⟨false, false, true, true⟩ } [0xCA, 0x00, 0x80]
    t.flags = ⟨false, false, true, true⟩ ∧ t.pc = 0x0103 ∧ t.cycles = 12 := by
  decide

theorem test_R252 : let t := ran { State.reset with h := 0xC1, l := 0x23 } [0xE9]
    t.flags = ⟨true, false, true, true⟩ ∧ t.pc = 0xC123 ∧ t.cycles = 4 := by
  decide

theorem test_R253 : let t := ran State.reset [0x18, 0xFE]
    t.flags = ⟨true, false, true, true⟩ ∧ t.pc = 0x0100 ∧ t.cycles = 12 := by
  decide

theorem test_R254 : let t := ran { State.reset with flags := ⟨false, false, true, true⟩ } [0x20, 0xFB]
    t.flags = ⟨false, false, true, true⟩ ∧ t.pc = 0x00FD ∧ t.cycles = 12 := by
  decide

theorem test_R255 : let t := ran State.reset [0xCD, 0x34, 0x12]
    t.flags = ⟨true, false, true, true⟩ ∧ peek t 0xFFFD = 0x01 ∧ peek t 0xFFFC = 0x03 ∧ t.sp = 0xFFFC ∧
      t.pc = 0x1234 ∧ t.cycles = 24 := by
  decide

theorem test_R256 : let t := ran { State.reset with flags := ⟨true, false, true, true⟩ } [0xDC, 0x00, 0x20]
    t.flags = ⟨true, false, true, true⟩ ∧ peek t 0xFFFD = 0x01 ∧ peek t 0xFFFC = 0x03 ∧ t.sp = 0xFFFC ∧
      t.pc = 0x2000 ∧ t.cycles = 24 := by
  decide

theorem test_R257 : let t := ran (poke (poke { State.reset with sp := 0xC000 } 0xC000 0x03) 0xC001 0x01) [0xC9]
    t.flags = ⟨true, false, true, true⟩ ∧ t.sp = 0xC002 ∧ t.pc = 0x0103 ∧ t.cycles = 16 := by
  decide

theorem test_R258 :
    let t := ran (poke (poke { State.reset with sp := 0xC000, flags := ⟨true, false, true, true⟩ } 0xC000 0x03) 0xC001 0x01)
      [0xC8]
    t.flags = ⟨true, false, true, true⟩ ∧ t.sp = 0xC002 ∧ t.pc = 0x0103 ∧ t.cycles = 20 := by
  decide

theorem test_R259 :
    let t := ran (poke (poke { State.reset with sp := 0xC000, ime := false } 0xC000 0x50) 0xC001 0x01)
      [0xD9]
    t.flags = ⟨true, false, true, true⟩ ∧ t.sp = 0xC002 ∧ t.ime = true ∧ t.pc = 0x0150 ∧ t.cycles = 16 := by
  decide

theorem test_R260 : let t := ran State.reset [0xFF]
    t.flags = ⟨true, false, true, true⟩ ∧ peek t 0xFFFD = 0x01 ∧ peek t 0xFFFC = 0x01 ∧ t.sp = 0xFFFC ∧
      t.pc = 0x0038 ∧ t.cycles = 16 := by
  decide

theorem test_R271 : let t := ran State.reset [0x00]
    t.flags = ⟨true, false, true, true⟩ ∧ t.pc = 0x0101 ∧ t.cycles = 4 := by
  decide

/-- R272: with IME 1 it waits, PC already past it; with IME 0 it is a `NOP`. -/
theorem test_R272 : let t := ran { State.reset with ime := true } [0x76]
    let u := ran State.reset [0x76]
    t.haltWait = true ∧ t.pc = 0x0101 ∧ t.cycles = 4 ∧ u.haltWait = false ∧ u.pc = 0x0101 := by
  decide

theorem test_R273 : let t := ran State.reset [0xFB]
    t.ime = true ∧ t.pc = 0x0101 ∧ t.cycles = 4 := by
  decide

theorem test_R274 : let t := ran { State.reset with ime := true } [0xF3]
    t.ime = false ∧ t.pc = 0x0101 ∧ t.cycles = 4 := by
  decide

/-- R275 with the parameter at `nop2`. -/
theorem test_R275 : let t := ran State.reset [0x10, 0x00]
    t = { State.reset with cart := some (cartWith [0x10]), pc := 0x0102, cycles := 4 } := by
  decide

/-- R276: the prefix runs the row its second byte selects, `SWAP A` (R238). -/
theorem test_R276 : let t := ran { State.reset with a := 0xF1 } [0xCB, 0x37]
    t.a = 0x1F ∧ t.pc = 0x0102 ∧ t.cycles = 8 ∧ t.halted = false := by
  decide

/-- R277, R300: PC stays, nothing is pushed. -/
theorem test_R277 : let t := ran State.reset [0xD3]
    t.halted = true ∧ t.fault = some { op := 0xD3, pc := 0x0100 } ∧ t.pc = 0x0100 ∧ t.sp = 0xFFFE ∧ t.cycles = 4 := by
  decide

/-! ### Memory, interrupts, devices -/

/-- 95_test_vectors.md P4. -/
theorem test_mirror :
    memRead (memWrite State.reset 0xC050 0xA5) 0xE050 = 0xA5 ∧ memRead (memWrite State.reset 0xE050 0x3C) 0xC050 = 0x3C ∧
    memRead (memWrite State.reset 0xDDFF 0x11) 0xFDFF = 0x11 ∧ memRead (memWrite State.reset 0xDE00 0x22) 0xFE00 = 0 := by
  decide

/-- 32 banks, bank `k` named by its first byte at `k * 0x4000` for a few `k`. -/
def banks : RomImage :=
  { length := 0x80000
    bytes := [(0x148, 4), (0x4000, 1), (0x20000, 8), (0x54000, 0x15), (0x70000, 0x1C), (0x7C000, 0x1F)] }

/-- 95_test_vectors.md P3: the byte at 0x4000 after each value is written to the bank select. -/
theorem test_bank_alias :
    ([0x00, 0x01, 0x14, 0x15, 0x1F, 0x28, 0x3C, 0x20, 0xF4] : List Byte).map (fun v =>
        memRead (memWrite { State.reset with cart := some banks } 0x2000 v) 0x4000) =
      [0x01, 0x01, 0x15, 0x15, 0x1F, 0x08, 0x1C, 0x01, 0x15] := by
  decide

/-- 95_test_vectors.md P5, step 4: `LDH (0x04),A` clears the divider and the step then adds its 12 ticks. -/
theorem test_div_write :
    let s := { State.reset with cart := some (cartWith [0xE0, 0x04]), a := 0x77 }
    (stepped s).div16 = 0x000C ∧ memRead (stepped s) 0xFF04 = 0x00 := by
  decide

/-- R83, R79: STAT keeps bits 2 to 0 (0x85 at reset), JOYP changes bits 5 and 4 only (0xCF at reset). -/
theorem test_masked_writes :
    peek (memWrite State.reset 0xFF41 0xFF) 0xFF41 = 0xFD ∧ peek (memWrite State.reset 0xFF41 0x00) 0xFF41 = 0x05 ∧
    peek (memWrite State.reset 0xFF00 0xFF) 0xFF00 = 0xFF ∧ peek (memWrite State.reset 0xFF00 0x00) 0xFF00 = 0xCF := by
  decide

/-- R81: the first and the last byte of an OAM DMA from 0xC100, through the mirror 0xE1 as well. -/
theorem test_oam_dma :
    let s := poke (poke State.reset 0xC100 0x5A) 0xC19F 0xA5
    peek (memWrite s 0xFF46 0xC1) 0xFE00 = 0x5A ∧ peek (memWrite s 0xFF46 0xE1) 0xFE9F = 0xA5 := by
  decide +kernel

/-- 95_test_vectors.md S8. -/
theorem test_joypad :
    let s := poke (poke State.reset 0xFF0F 0x00) 0xFF00 0xCF
    let t := handleInput { dpad := 0xF, btn := 0xE } s
    let u := handleInput { dpad := 0xB, btn := 0xF } (poke t 0xFF0F 0x00)
    peek t 0xFF0F = 0x10 ∧ memRead t 0xFF00 = 0xCE ∧
    peek (handleInput { dpad := 0xF, btn := 0xE } (poke t 0xFF0F 0x00)) 0xFF0F = 0x00 ∧
    peek u 0xFF0F = 0x10 ∧ memRead u 0xFF00 = 0xCB ∧ memRead (memWrite u 0xFF00 0x10) 0xFF00 = 0xDF ∧
    memRead (memWrite u 0xFF00 0x20) 0xFF00 = 0xEB := by
  decide

/-- The state of 95_test_vectors.md S3 before step 18: waiting at 0x0115, the timer's request made. -/
def waiting : State :=
  { poke (poke (poke (poke (poke State.reset 0xFF0F 0x04) 0xFFFF 0x04) 0xFF05 0xFE) 0xFF06 0xFE) 0xFF07 0x05 with
    pc := 0x0115, ime := true, haltWait := true }

/-- 95_test_vectors.md S3, step 18: the dispatch, then the timer's 4 ticks. -/
theorem test_dispatch :
    let t := stepped waiting
    t.pc = 0x0050 ∧ t.sp = 0xFFFC ∧ peek t 0xFFFD = 0x01 ∧ peek t 0xFFFC = 0x15 ∧ t.ime = false ∧ t.haltWait = false ∧
    peek t 0xFF0F = 0x00 ∧ t.tsub = 4 ∧ peek t 0xFF05 = 0xFE := by
  decide

/-- 95_test_vectors.md S3, steps 16 and 17: the overflow reloads TIMA and requests. -/
theorem test_timer_overflow :
    let s := { poke (poke waiting 0xFF05 0xFF) 0xFF0F 0x00 with tsub := 12 }
    let t := stepped s
    t.tsub = 0 ∧ peek t 0xFF05 = 0xFE ∧ peek t 0xFF0F = 0x04 ∧ t.haltWait = true := by
  decide

/-- R404: the first update puts the PPU in mode 2 of line 0, the STAT that read 0x85 keeping its other bits. -/
theorem test_first_update : peek (ppuUpdate 4 State.reset) 0xFF41 = 0x86 := by
  decide

/-- 95_test_vectors.md S7: line 143 full, the V-Blank request and mode 1. -/
theorem test_vblank :
    let s := { poke (poke State.reset 0xFF44 143) 0xFF0F 0x00 with lineCycles := 452 }
    let t := ppuUpdate 4 s
    peek t 0xFF44 = 144 ∧ peek t 0xFF0F = 0x01 ∧ (peek t 0xFF41).toNat % 4 = 1 ∧ t.lineCycles = 0 ∧ t.frameDone = 0 := by
  decide

/-- The video memory of 95_test_vectors.md S6. -/
def scene : State :=
  { State.reset with
    mem := [(0x8010, 0xF0), (0x8011, 0xCC), (0x8020, 0xFF), (0x8030, 0xCF), (0x8031, 0xCF), (0x9800, 0x01),
      (0xFE00, 16), (0xFE01, 10), (0xFE02, 2), (0xFE03, 0x80), (0xFE04, 16), (0xFE05, 12)] ++
      [(0xFE06, 3), (0xFE07, 0x10), (0xFF40, 0x93), (0xFF47, 0xE4), (0xFF48, 0x1B), (0xFF49, 0xE4)] }

/-- 95_test_vectors.md S6: columns 0, 2, 4, 6, 8, 10 and 12. -/
theorem test_pixels :
    let s := oamSearch scene
    s.visible.map (·.oamIndex) = [0, 1] ∧
    [0, 2, 4, 6, 8, 10, 12].map (pixel s) =
      [⟨3, 3, false⟩, ⟨1, 1, false⟩, ⟨2, 2, false⟩, ⟨2, 1, true⟩, ⟨2, 1, true⟩, ⟨3, 3, true⟩, ⟨0, 0, false⟩] := by
  decide

/-- 95_test_vectors.md S6, the variant with the window: columns 2, 3, 9 and 10. -/
theorem test_window_pixels :
    let s := oamSearch { scene with
      mem := Memory.write (Memory.write (Memory.write scene.mem 0xFF40 0xF3) 0xFF4B 10) 0x9C00 2 }
    [2, 3, 9, 10].map (pixel s) = [⟨1, 1, false⟩, ⟨1, 1, false⟩, ⟨1, 1, false⟩, ⟨3, 3, true⟩] := by
  decide

/-- The placed instruction is what the next step runs: `INC A` (A is 1 at reset), `LD B,0` with an operand of zeros, and
`SWAP B` of two bytes (log 16). -/
theorem test_withFetchWord :
    (stepped (State.reset.withFetchWord 8 0x3C)).a = 0x02 ∧ (stepped (State.reset.withFetchWord 8 0x06)).pc = 0x0102 ∧
    (stepped ({ State.reset with b := 0x12 }.withFetchWord 16 0x30CB)).b = 0x21 := by
  decide

/-- It also works in work RAM, in its mirror and from a halted state. -/
theorem test_withFetchWord_ram :
    (stepped ({ State.reset with pc := 0xC000, halted := true }.withFetchWord 8 0x3C)).a = 0x02 ∧
    (stepped ({ State.reset with pc := 0xE000 }.withFetchWord 8 0x3C)).a = 0x02 := by
  decide

/-! ### Witnesses: the hypotheses of each statement can be met, clause by clause -/

theorem witness_DecodeEncode : (Instr.setBR 7 .a).wellFormed = true ∧ (Instr.callCcNn .c 0xFFFF).wellFormed = true := by
  decide

theorem witness_EncodeDecode : decode [0xDC, 0x00, 0x20, 0x55] = .ok (.callCcNn .c 0x2000, [0x55]) := rfl

theorem witness_LengthFromFirstByte :
    decode (0x76 :: []) = .ok (.halt, []) ∧ decode (0xCB :: [0x7C]) = .ok (.bitBR 7 .h, []) ∧
    decode (0xFA :: [0xFF, 0xFF]) = .ok (.ldANn 0xFFFF, []) := ⟨rfl, rfl, rfl⟩

theorem witness_UndefinedBytes :
    (0xD3#8).toNat ∈ [0xD3, 0xDB, 0xDD, 0xE3, 0xE4, 0xEB, 0xEC, 0xED, 0xF4, 0xFC, 0xFD] ∧
    (0xCB#8).toNat ∉ [0xD3, 0xDB, 0xDD, 0xE3, 0xE4, 0xEB, 0xEC, 0xED, 0xF4, 0xFC, 0xFD] := by
  decide

/-- The stack after reset lies in high RAM. -/
theorem plain_stack : PlainCell (State.reset.sp - 1) ∧ PlainCell (State.reset.sp - 2) := by
  unfold PlainCell
  decide

theorem witness_PushPopAf :
    Memory.wf State.reset.mem = true ∧ PlainCell (State.reset.sp - 1) ∧ PlainCell (State.reset.sp - 2) ∧
    ∃ t u, exec .pushAf State.reset = .next t ∧ exec .popAf t = .next u :=
  ⟨rfl, plain_stack.1, plain_stack.2, _, _, rfl, rfl⟩

theorem witness_DaaDecimal : (9 : Nat) ≤ 9 ∧ (0 : Nat) ≤ 9 := by
  decide

/-- `JumpForms`, `Calls`, `Returns`: each condition can hold and can fail. -/
theorem witness_conditions :
    let s : State := { State.reset with flags := ⟨false, false, false, false⟩ }
    s.flags.z = false ∧ State.reset.flags.z = true ∧ s.flags.c = false ∧ State.reset.flags.c = true := by
  decide

theorem witness_CpuControl : { State.reset with ime := true }.ime = true ∧ State.reset.ime = false := by
  decide

theorem witness_IllegalOpcode : illegalByte .illegalD3 = some 0xD3 ∧ illegalByte .illegalFD = some 0xFD := by
  decide

/-- `MemReadCases`: every clause at an end of its range; the window with two banks and with 32. -/
theorem witness_MemReadCases :
    let s : State := { State.reset with cart := some (cartWith []) }
    let u : State := { State.reset with cart := some banks }
    let boot : State := { s with bootMapped := true }
    (boot.bootMapped = true ∧ (0x00FF#16).toNat ≤ 0x00FF) ∧
    (¬ (boot.bootMapped = true ∧ (0x0100#16).toNat ≤ 0x00FF) ∧ (0x3FFF#16).toNat < 0x4000 ∧ s.cart = some (cartWith [])) ∧
    (State.reset.cart = none ∧ State.reset.bootMapped = false ∧ (0x7FFF#16).toNat < 0x8000) ∧
    (0x4000 ≤ (0x4000#16).toNat ∧ s.cart = some (cartWith []) ∧ romBanks (cartWith []) = 2) ∧
    (u.cart = some banks ∧ romBanks banks = 32) ∧
    (0xA000 ≤ (0xA000#16).toNat ∧ (0xBFFF#16).toNat ≤ 0xBFFF) ∧ (0xE000 ≤ (0xE000#16).toNat ∧ (0xFDFF#16).toNat ≤ 0xFDFF) ∧
    (0xFF00#16).toNat = 0xFF00 ∧ (0xFF04#16).toNat = 0xFF04 ∧
    (0x8000 ≤ (0xFE00#16).toNat ∧ ¬ (0xA000 ≤ (0xFE00#16).toNat ∧ (0xFE00#16).toNat ≤ 0xBFFF) ∧
      ¬ (0xE000 ≤ (0xFE00#16).toNat ∧ (0xFE00#16).toNat ≤ 0xFDFF) ∧ (0xFE00#16).toNat ≠ 0xFF00 ∧
      (0xFE00#16).toNat ≠ 0xFF04) := by
  decide

/-- `MemWriteCases`: every clause at an end of its range. -/
theorem witness_MemWriteCases :
    let s : State := { State.reset with cart := some (cartWith []) }
    let u : State := { State.reset with cart := some banks }
    ((0xFF50#16).toNat = 0xFF50 ∧ (0x01#8) = 0x01) ∧
    (0x2000 ≤ (0x2000#16).toNat ∧ (0x3FFF#16).toNat ≤ 0x3FFF ∧ u.cart = some banks ∧ romBanks banks ≠ 2) ∧
    (State.reset.cart = none ∧ s.cart = some (cartWith []) ∧ romBanks (cartWith []) = 2) ∧
    ((0x1FFF#16).toNat < 0x2000 ∧ 0x4000 ≤ (0x4000#16).toNat ∧ (0x7FFF#16).toNat < 0x8000) ∧
    (0xE000 ≤ (0xE000#16).toNat ∧ (0xFDFF#16).toNat ≤ 0xFDFF) ∧ (0xFF04#16).toNat = 0xFF04 ∧ (0xFF00#16).toNat = 0xFF00 ∧
    (0xA000 ≤ (0xA000#16).toNat ∧ (0xBFFF#16).toNat ≤ 0xBFFF) ∧ (0xFF41#16).toNat = 0xFF41 ∧
    (0x8000 ≤ (0xFF50#16).toNat ∧ ¬ (0xA000 ≤ (0xFF50#16).toNat ∧ (0xFF50#16).toNat ≤ 0xBFFF) ∧
      ¬ (0xE000 ≤ (0xFF50#16).toNat ∧ (0xFF50#16).toNat ≤ 0xFDFF) ∧ (0xFF50#16).toNat ≠ 0xFF00 ∧
      (0xFF50#16).toNat ≠ 0xFF04 ∧ (0xFF50#16).toNat ≠ 0xFF41 ∧ (0xFF50#16).toNat ≠ 0xFF46 ∧
      ¬ ((0xFF50#16).toNat = 0xFF50 ∧ (0x00#8) = 0x01)) := by
  decide

theorem witness_OamDmaCopies : Memory.wf scene.mem = true ∧ (159 : Nat) < 160 := by
  decide

/-- `StoreFrame`: a store to the last byte of OAM does not reach the byte before it. -/
theorem witness_StoreFrame : ¬ Touches 0xFE9F 0xFE9E := by
  unfold Touches
  decide

theorem witness_ReadAfterWrite :
    Memory.wf scene.mem = true ∧ PlainCell 0x8000 ∧ PlainCell 0xDDFF ∧ PlainCell 0xFFFF ∧
    0xC000 ≤ (0xC000#16).toNat ∧ (0xDDFF#16).toNat ≤ 0xDDFF := by
  unfold PlainCell
  decide

/-- `StoringInstructionsFrame`: a store at HL and a push, with addresses they do not reach. -/
theorem witness_StoringInstructionsFrame :
    let s : State := { State.reset with h := 0xC0, l := 0x00 }
    (∃ t, exec .incHl s = .next t) ∧ (Instr.incHl, (0xC000 : Word)) ∈ [(Instr.incHl, regHL s)] ∧ ¬ Touches 0xC000 0xC001 ∧
    (∃ t, exec .pushAf s = .next t) ∧
    (Instr.pushAf, (0xFFFD : Word), (0xFFFC : Word)) ∈ [(Instr.pushAf, s.sp - 1, s.sp - 2)] ∧ ¬ Touches 0xFFFD 0xC001 ∧
    ¬ Touches 0xFFFC 0xC001 := by
  unfold Touches
  exact ⟨⟨_, rfl⟩, by decide, by decide, ⟨_, rfl⟩, by decide, by decide, by decide⟩

theorem witness_PcAdvances :
    (Instr.ldNnSp 0xFFFF).wellFormed = true ∧ setsPc (.ldNnSp 0xFFFF) = false ∧
    ∃ t, exec (.ldNnSp 0xFFFF) State.reset = .next t := ⟨rfl, rfl, _, rfl⟩

/-- `ModeBitWriters`: each of the three bits does change somewhere. -/
theorem witness_ModeBitWriters :
    (∃ t, exec .ei State.reset = .next t ∧ t.ime ≠ State.reset.ime) ∧
    (∃ t, exec .illegalD3 State.reset = .next t ∧ t.halted ≠ State.reset.halted) ∧
    (∃ t, exec .halt { State.reset with ime := true } = .next t ∧ t.haltWait ≠ State.reset.haltWait) :=
  ⟨⟨_, rfl, by decide⟩, ⟨_, rfl, by decide⟩, ⟨_, rfl, by decide⟩⟩

theorem witness_DevicesUntouchedByCpu : ∃ t, exec (.ldhNA 0x04) State.reset = .next t := ⟨_, rfl⟩

theorem witness_ResetValues : (0xFF00 : Nat) ≤ 0xFF7F ∧ (0xFF7F : Nat) ≠ 0xFF04 := by
  decide

/-- `StepRunsDecoded`: with no cartridge the bytes at PC are 0xFF, `RST 0x38`. -/
theorem witness_StepRunsDecoded :
    State.reset.halted = false ∧ State.reset.haltWait = false ∧
    decode [memRead State.reset State.reset.pc, memRead State.reset (State.reset.pc + 1),
      memRead State.reset (State.reset.pc + 2)] = .ok (.rstT 7, [0xFF, 0xFF]) ∧
    ∃ t, exec (.rstT 7) State.reset = .next t := ⟨rfl, rfl, rfl, _, rfl⟩

/-- The machine halted at 0x0100 by 0xD3. -/
def halted : State := { State.reset with halted := true, fault := some { op := 0xD3, pc := 0x0100 } }

theorem witness_IdleSteps :
    halted.halted = true ∧ (∃ t, step halted = .next t) ∧ waiting.haltWait = true :=
  ⟨rfl, ⟨_, step_of_cpuStep (cpuStep_idle (.inl rfl))⟩, rfl⟩

/-- `InterruptEntry`: interrupt 0 and interrupt 4 as the lowest; none while halted, with IME 0, or with IE 0. -/
theorem witness_InterruptEntry :
    let s : State := { poke State.reset 0xFFFF 0x1F with ime := true }
    let u : State := { poke (poke State.reset 0xFF0F 0xF0) 0xFFFF 0xFF with ime := true }
    (s.halted = false ∧ s.ime = true ∧ (peek s 0xFF0F).getLsbD 0 = true ∧ (peek s 0xFFFF).getLsbD 0 = true) ∧
    (u.halted = false ∧ u.ime = true ∧ (peek u 0xFF0F).getLsbD 4 = true ∧ (peek u 0xFFFF).getLsbD 4 = true ∧
      ∀ j < 4, ¬ ((peek u 0xFF0F).getLsbD j = true ∧ (peek u 0xFFFF).getLsbD j = true)) ∧
    halted.halted = true ∧ State.reset.ime = false ∧
    ∀ i < 5, ¬ ((peek State.reset 0xFF0F).getLsbD i = true ∧ (peek State.reset 0xFFFF).getLsbD i = true) := by
  decide

theorem witness_InterruptRoundTrip :
    Memory.wf waiting.mem = true ∧ PlainCell (waiting.sp - 1) ∧ PlainCell (waiting.sp - 2) ∧
    ∃ u, exec .reti (takeInterrupt 2 waiting) = .next u :=
  ⟨by decide, plain_stack.1, plain_stack.2, _, rfl⟩

/-- `HaltWakes`: with the timer's request made, and with none made. -/
theorem witness_HaltWakes :
    let calm : State := poke waiting 0xFF0F 0x00
    (waiting.halted = false ∧ waiting.haltWait = true ∧ waiting.ime = true ∧ pendingInterrupt waiting = some 2) ∧
    (calm.halted = false ∧ calm.haltWait = true ∧ calm.ime = true ∧ pendingInterrupt calm = none) := by
  decide

theorem witness_HaltWakes_steps : (∃ t, step waiting = .next t) ∧ ∃ t, step (poke waiting 0xFF0F 0x00) = .next t :=
  ⟨⟨_, step_of_cpuStep (cpuStep_idle (.inr rfl))⟩, ⟨_, step_of_cpuStep (cpuStep_idle (.inr rfl))⟩⟩

theorem witness_NeverUndone : (∃ t, step halted = .next t) ∧ halted.bootMapped = false ∧ halted.halted = true :=
  ⟨⟨_, step_of_cpuStep (cpuStep_idle (.inl rfl))⟩, rfl, rfl⟩

/-- `TimerTick`: disabled; enabled at one tick below the threshold 1024 and at it; TIMA below 0xFF and at 0xFF. -/
theorem witness_TimerTick :
    let slow : State := { poke State.reset 0xFF07 0xFC with tsub := 1000 }
    let full : State := poke slow 0xFF05 0xFF
    Memory.wf full.mem = true ∧ ¬ (peek State.reset 0xFF07).getLsbD 2 = true ∧ (peek slow 0xFF07).getLsbD 2 = true ∧
    (peek slow 0xFF07).toNat % 4 = 0 ∧ slow.tsub + 23 < 1024 ∧ 1024 ≤ slow.tsub + 24 ∧ peek slow 0xFF05 ≠ 0xFF ∧
    (peek full 0xFF07).getLsbD 2 = true ∧ peek full 0xFF05 = 0xFF := by
  decide

theorem witness_LcdOff : let s := poke State.reset 0xFF40 0x11
    Memory.wf s.mem = true ∧ (peek s 0xFF40).getLsbD 7 = false := by
  decide

/-- `LineCounter`, `ModeFollowsPosition`: one tick below the end of a line and at it; lines 143 and 153. -/
theorem witness_LineCounter :
    let s : State := { poke State.reset 0xFF44 143 with lineCycles := 452 }
    let u : State := { poke State.reset 0xFF44 153 with lineCycles := 455 }
    (Memory.wf s.mem = true ∧ (peek s 0xFF40).getLsbD 7 = true ∧ s.lineCycles < 456 ∧ s.lineCycles + 3 < 456 ∧
      456 ≤ s.lineCycles + 4 ∧ (peek s 0xFF44).toNat + 1 = 144) ∧
    (Memory.wf u.mem = true ∧ (peek u 0xFF40).getLsbD 7 = true ∧ u.lineCycles < 456 ∧ 456 ≤ u.lineCycles + 24 ∧
      (peek u 0xFF44).toNat + 1 > 153) := by
  decide

/-- `LycCompare`: a compared line that equals LYC and one that does not; no comparison at line 144 and inside a line. -/
theorem witness_LycCompare :
    let s : State := { poke (poke State.reset 0xFF44 142) 0xFF45 143 with lineCycles := 452 }
    let u : State := { poke State.reset 0xFF44 143 with lineCycles := 452 }
    (Memory.wf s.mem = true ∧ (peek s 0xFF40).getLsbD 7 = true ∧ s.lineCycles < 456 ∧ 456 ≤ s.lineCycles + 4 ∧
      (peek s 0xFF44).toNat + 1 < 144 ∧ (peek s 0xFF44).toNat + 1 = (peek s 0xFF45).toNat ∧
      (peek (poke s 0xFF45 0) 0xFF44).toNat + 1 ≠ (peek (poke s 0xFF45 0) 0xFF45).toNat) ∧
    (Memory.wf u.mem = true ∧ (peek u 0xFF40).getLsbD 7 = true ∧ ¬ (peek u 0xFF44).toNat + 1 < 144 ∧
      ¬ 456 ≤ u.lineCycles + 3) := by
  decide

/-- Twelve sprites on line 0, entries 0 to 11. -/
def crowd : State :=
  { State.reset with
    mem := [(0xFE00, 16), (0xFE04, 16), (0xFE08, 16), (0xFE0C, 16), (0xFE10, 16), (0xFE14, 16), (0xFE18, 16),
      (0xFE1C, 16), (0xFE20, 16), (0xFE24, 16), (0xFE28, 16), (0xFE2C, 16)] }

/-- `SpriteSearch`: entry 11 is on the line and left out; a line already searched. -/
theorem witness_SpriteSearch :
    crowd.searched = false ∧ (oamEntry crowd 11).y.toNat ≤ (peek crowd 0xFF44).toNat + 16 ∧
    (peek crowd 0xFF44).toNat + 16 < (oamEntry crowd 11).y.toNat + 8 ∧
    oamEntry crowd 11 ∉ (oamSearch crowd).visible ∧ (oamSearch crowd).searched = true := by
  decide

/-- `SpriteSearch` in an update: due at tick 251 where not searched, and on the new line 143 though the line before was
searched; not due at tick 252, nor on the new line 144. -/
theorem witness_SpriteSearch_update :
    let s : State := { State.reset with lineCycles := 239 }
    let u : State := { poke State.reset 0xFF44 142 with lineCycles := 455, searched := true }
    let v : State := poke u 0xFF44 143
    ((peek s 0xFF40).getLsbD 7 = true ∧ (peek (ppuUpdate 12 s) 0xFF44).toNat < 144 ∧ (ppuUpdate 12 s).lineCycles < 252 ∧
      s.searched = false ∧ ¬ (ppuUpdate 13 s).lineCycles < 252) ∧
    ((peek u 0xFF40).getLsbD 7 = true ∧ (peek (ppuUpdate 1 u) 0xFF44).toNat < 144 ∧ (ppuUpdate 1 u).lineCycles < 252 ∧
      456 ≤ u.lineCycles + 1) ∧
    ((peek v 0xFF40).getLsbD 7 = true ∧ ¬ (peek (ppuUpdate 1 v) 0xFF44).toNat < 144) := by
  decide

/-- `RowDrawnOnce`: a line not drawn and a drawn one; in an update, due at ticks 80 and 251, not at 79, 252 and on 144. -/
theorem witness_RowDrawnOnce :
    let s : State := { scene with lineCycles := 60 }
    let u : State := { scene with lineCycles := 239 }
    let v : State := poke s 0xFF44 144
    Framebuffer.wf scene.fb = true ∧ scene.drawn = false ∧ { scene with drawn := true }.drawn = true ∧
    (peek scene 0xFF40).getLsbD 7 = true ∧ (peek (ppuUpdate 20 s) 0xFF44).toNat < 144 ∧
    80 ≤ (ppuUpdate 20 s).lineCycles ∧ ¬ 80 ≤ (ppuUpdate 19 s).lineCycles ∧
    (ppuUpdate 12 u).lineCycles < 252 ∧ ¬ (ppuUpdate 13 u).lineCycles < 252 ∧
    ¬ (peek (ppuUpdate 20 v) 0xFF44).toNat < 144 := by
  decide

/-- `BackgroundAndWindow`: the window over the last column; the background; and neither. Both tile addressings. -/
theorem witness_BackgroundAndWindow :
    let w : State := poke (poke scene 0xFF40 0xF3) 0xFF4B 166
    let off : State := poke scene 0xFF40 0x82
    ((peek w 0xFF40).getLsbD 5 = true ∧ (peek w 0xFF4A).toNat ≤ (peek w 0xFF44).toNat ∧ (peek w 0xFF4B).toNat ≤ 159 + 7 ∧
      (peek w 0xFF40).getLsbD 4 = true) ∧
    (¬ (peek w 0xFF4B).toNat ≤ 158 + 7 ∧ (peek w 0xFF40).getLsbD 0 = true) ∧
    (¬ (peek off 0xFF40).getLsbD 5 = true ∧ ¬ (peek off 0xFF40).getLsbD 0 = true ∧ ¬ (peek off 0xFF40).getLsbD 4 = true) := by
  decide

/-- `SpriteMultiplexer` at column 4 of the scene: sprite 0 is first and opaque, and hidden; at column 6 it shows; at
column 12 both are transparent. -/
theorem witness_SpriteMultiplexer :
    let s := oamSearch scene
    (peek s 0xFF40).getLsbD 1 = true ∧ s.visible = [] ++ oamEntry scene 0 :: [oamEntry scene 1] ∧
    spriteIndex s 4 (oamEntry scene 0) ≠ 0 ∧ (oamEntry scene 0).flags.getLsbD 7 = true ∧ (baseCell s 4).index ≠ 0 ∧
    spriteIndex s 6 (oamEntry scene 0) ≠ 0 ∧ (baseCell s 6).index = 0 ∧
    (∀ sp ∈ s.visible, spriteIndex s 12 sp = 0) ∧ (peek State.reset 0xFF40).getLsbD 1 = false ∧
    ((oamEntry scene 0).x.toNat + 7 = 9 + 8 ∧ (oamEntry scene 0).y.toNat + 0 = (peek s 0xFF44).toNat + 16) := by
  decide

/-- `FrameBoundary`: one tick below the budget and at it; no call, and a call that presses a button or none. -/
theorem witness_FrameBoundary :
    let s : State := { State.reset with frameCycles := 70220 }
    let u : State := { s with inputs := [some { dpad := 0x7, btn := 0xF }, none] }
    Memory.wf u.mem = true ∧ s.frameCycles + 3 < 70224 ∧ 70224 ≤ s.frameCycles + 4 ∧ s.inputs = [] ∧
    u.inputs = some { dpad := 0x7, btn := 0xF } :: [none] ∧ { s with inputs := [none] }.inputs = none :: [] ∧
    (∃ b < 4, u.joyDpad.getLsbD b = true ∧ (0x7#4).getLsbD b = false) ∧
    ∀ b < 4, ¬ (u.joyDpad.getLsbD b = true ∧ (0xF#4).getLsbD b = false) := by
  decide

/-- `StepKeepsGood`: the halted machine is good. -/
theorem witness_StepKeepsGood : Inv halted := by
  constructor <;> decide

end Sys2Proof.Tests
end

section
/-! SUPPORT. The rules by which a statement of the form `Encodes` or `Runs` is shown for one instruction. -/

namespace Sys2Proof.Machine

/-- An opcode byte followed by a 16-bit operand, low byte first (format F3: R111, R119). -/
theorem encodes_word {b0 : Byte} {f : Word → Instr} (hl : lengthOf b0 = 3)
    (hf : ∀ b1 b2, decodeWindow b0 b1 b2 = f (mkWord b2 b1)) (nn : Word) :
    Encodes [b0, BitVec.extractLsb' 0 8 nn, BitVec.extractLsb' 8 8 nn] (f nn) :=
  encodes_three hl ((hf _ _).trans (congrArg f (mkWord_hi_lo nn)))

/-- An arm that ends in `finish` runs to the effect it finishes, when that effect leaves PC to `finish`. -/
theorem runs_of_finish {i : Instr} {s t : State} {len ticks : Nat} (hpc : t.pc = s.pc)
    (hx : exec i s = .next (finish len ticks t)) : Runs i s len ticks t := by
  rw [Runs, hx, finish, hpc]

end Sys2Proof.Machine
end

section
/-! PROOFS. The 8-bit loads (40_load8.md): where an opcode has a register field, its encoding for every register; then the
statements, whose clauses come in pairs: an instruction's encoding, and its run. -/

namespace Sys2Proof.Machine

theorem encodes_ldRR (dst src : Reg8) :
    Encodes [BitVec.ofNat 8 (0b01000000 + 8 * dst.code + src.code)] (.ldRR dst src) := by
  cases dst <;> cases src <;> exact encodes_one rfl fun _ _ => rfl

theorem encodes_ldRN (dst : Reg8) (n : Byte) :
    Encodes [BitVec.ofNat 8 (0b00000110 + 8 * dst.code), n] (.ldRN dst n) := by
  cases dst <;> exact encodes_two rfl fun _ => rfl

theorem encodes_ldRHl (dst : Reg8) : Encodes [BitVec.ofNat 8 (0b01000110 + 8 * dst.code)] (.ldRHl dst) := by
  cases dst <;> exact encodes_one rfl fun _ _ => rfl

theorem encodes_ldHlR (src : Reg8) : Encodes [BitVec.ofNat 8 (0b01110000 + src.code)] (.ldHlR src) := by
  cases src <;> exact encodes_one rfl fun _ _ => rfl

/-- Settles O7: each arm is `finish` after the one register write, which leaves PC. -/
theorem registerLoads : Obligations.RegisterLoads := by
  intro s dst src n
  exact ⟨encodes_ldRR dst src, runs_of_finish (setReg_pc ..) rfl,
    encodes_ldRN dst n, runs_of_finish (setReg_pc ..) rfl⟩

/-- Settles O8: each arm is `finish` after one read and the register writes, which leave PC. -/
theorem memoryLoads : Obligations.MemoryLoads := by
  intro s dst n nn
  refine ⟨encodes_ldRHl dst, runs_of_finish (setReg_pc ..) rfl, ?ldABc, ?_, ?ldADe, ?_, ?ldANn, ?_, ?ldhAC, ?_,
    ?ldhAN, ?_, ?ldAHld, ?_, ?ldAHli, ?_⟩
  case ldANn => exact encodes_word rfl (fun _ _ => rfl) nn
  case ldhAN => exact encodes_two rfl fun _ => rfl
  case ldABc | ldADe | ldhAC | ldAHld | ldAHli => exact encodes_one rfl fun _ _ => rfl
  all_goals exact runs_of_finish rfl rfl

/-- Settles O9: each arm is `finish` after one `memWrite`, which writes no register (`memWrite_pc`), and the step of HL. -/
theorem memoryStores : Obligations.MemoryStores := by
  intro s src n nn
  refine ⟨encodes_ldHlR src, ?_, ?ldHlN, ?_, ?ldBcA, ?_, ?ldDeA, ?_, ?ldNnA, ?_, ?ldhCA, ?_, ?ldhNA, ?_,
    ?ldHldA, ?_, ?ldHliA, ?_⟩
  case ldNnA => exact encodes_word rfl (fun _ _ => rfl) nn
  case ldHlN | ldhNA => exact encodes_two rfl fun _ => rfl
  case ldBcA | ldDeA | ldhCA | ldHldA | ldHliA => exact encodes_one rfl fun _ _ => rfl
  all_goals exact runs_of_finish (memWrite_pc ..) rfl

end Sys2Proof.Machine
end

section
/-! SUPPORT. The word a pop gives, byte by byte, and the flags of `SP + e` in integers. -/

namespace Sys2Proof.Machine

@[simp] theorem hiByte_popWord (s : State) : hiByte (popWord s) = memRead s (s.sp + 1) := hiByte_mkWord _ _

@[simp] theorem loByte_popWord (s : State) : loByte (popWord s) = memRead s s.sp := loByte_mkWord _ _

/-- The low nibble and the low byte of SP, as remainders of SP itself (R163, R213). -/
theorem spFlags_eq (sp : Word) (e : Byte) :
    spFlags sp e =
      { z := false
        n := false
        h := decide (sp.toNat % 16 + e.toNat % 16 > 0xF)
        c := decide (sp.toNat % 256 + e.toNat > 0xFF) } := by
  have hnib : sp.toNat % 256 % 16 = sp.toNat % 16 := by omega
  simp only [spFlags, loNibble, loByte_toNat, hnib]

end Sys2Proof.Machine
end

section
/-! PROOFS. The 16-bit loads and the stack (41_load16_stack.md): where an opcode has a pair field, its encoding and its run
for every pair; then the statements, whose clauses come in pairs: an instruction's encoding, and its run. -/

namespace Sys2Proof.Machine

theorem encodes_ldRrNn (rr : Pair) (nn : Word) :
    Encodes [BitVec.ofNat 8 (0b00000001 + 16 * rr.code), BitVec.extractLsb' 0 8 nn, BitVec.extractLsb' 8 8 nn]
      (.ldRrNn rr nn) := by
  cases rr <;> exact encodes_word rfl (fun _ _ => rfl) nn

theorem encodes_pushRr (qq : StackPair) : Encodes [BitVec.ofNat 8 (0b11000101 + 16 * qq.code)] (.pushRr qq) := by
  cases qq <;> exact encodes_one rfl fun _ _ => rfl

theorem encodes_popRr (qq : StackPair) : Encodes [BitVec.ofNat 8 (0b11000001 + 16 * qq.code)] (.popRr qq) := by
  cases qq <;> exact encodes_one rfl fun _ _ => rfl

theorem runs_pushRr (s : State) (qq : StackPair) : Runs (.pushRr qq) s 1 16 (Pushed s (getStackPair s qq)) :=
  runs_of_finish (push16_pc ..) rfl

theorem runs_pushAf (s : State) : Runs .pushAf s 1 16 (Pushed s (mkWord s.a (packFlags s.flags))) :=
  runs_of_finish (push16_pc ..) rfl

theorem runs_popRr (s : State) (qq : StackPair) :
    Runs (.popRr qq) s 1 12 (setStackPair (popSp s) qq (popWord s)) :=
  runs_of_finish (setStackPair_pc ..) rfl

theorem runs_popAf (s : State) :
    Runs .popAf s 1 12 { popSp s with a := hiByte (popWord s), flags := unpackFlags (loByte (popWord s)) } :=
  runs_of_finish rfl rfl

/-- Settles O10: each arm is `finish` after register writes or two `memWrite`s, which leave PC; the flags of
`LD HL,SP+e` are `spFlags_eq`. -/
theorem wordLoads : Obligations.WordLoads := by
  intro s rr nn e
  refine ⟨encodes_ldRrNn rr nn, ?ldRrNn, encodes_word rfl (fun _ _ => rfl) nn, ?ldNnSp,
    encodes_one rfl fun _ _ => rfl, ?ldSpHl, encodes_two rfl fun _ => rfl, ?ldHlSpE⟩
  case ldRrNn => exact runs_of_finish (setPair_pc ..) rfl
  case ldNnSp => exact runs_of_finish ((memWrite_pc ..).trans (memWrite_pc ..)) rfl
  case ldSpHl => exact runs_of_finish rfl rfl
  case ldHlSpE =>
    rw [← spFlags_eq]
    exact runs_of_finish rfl rfl

/-- Settles O11: each arm pushes one word; for AF its two bytes are A and the packed flags (`packFlags_eq`). -/
theorem pushes : Obligations.Pushes := by
  intro s qq
  refine ⟨encodes_pushRr qq, ?pushRr, encodes_one rfl fun _ _ => rfl, ?pushAf⟩
  case pushRr =>
    have h := runs_pushRr s qq
    cases qq <;> exact h
  case pushAf =>
    have h := runs_pushAf s
    rwa [Pushed, hiByte_mkWord, loByte_mkWord, packFlags_eq] at h

/-- Settles O12: each arm writes the popped word's two bytes, which are the reads at SP + 1 and SP. -/
theorem pops : Obligations.Pops := by
  intro s qq
  refine ⟨encodes_popRr qq, ?popRr, encodes_one rfl fun _ _ => rfl, ?popAf⟩
  case popRr =>
    have h := runs_popRr s qq
    cases qq <;> rwa [setStackPair, hiByte_popWord, loByte_popWord] at h
  case popAf =>
    have h := runs_popAf s
    rwa [hiByte_popWord, loByte_popWord] at h

end Sys2Proof.Machine
end

section
/-! SUPPORT. The rules by which a statement of the form `RunsToA`, `RunsToReg`, `RunsToHl` or `RunsToFlags` is shown: an arm
that finishes one write of an ALU result runs to whatever holds of that result and its flags. -/

namespace Sys2Proof.Machine

section
variable {i : Instr} {s : State} {o : AluOut} {len ticks : Nat} {P : Byte → Flags → Prop}

theorem runsToA_of_finish (hP : P o.res o.flags) (hx : exec i s = .next (finish len ticks (setA s o))) :
    RunsToA i s len ticks P :=
  ⟨o.res, o.flags, hP, runs_of_finish rfl hx⟩

theorem runsToReg_of_finish {dst : Reg8} (hP : P o.res o.flags)
    (hx : exec i s = .next (finish len ticks (setRegFlags s dst o))) : RunsToReg i s dst len ticks P :=
  ⟨o.res, o.flags, hP, runs_of_finish (setReg_pc ..) hx⟩

theorem runsToHl_of_finish (hP : P o.res o.flags)
    (hx : exec i s = .next (finish len ticks (setHLFlags s o))) : RunsToHl i s len ticks P :=
  ⟨o.res, o.flags, hP, runs_of_finish (memWrite_pc ..) hx⟩

theorem runsToFlags_of_finish {Q : Flags → Prop} {f : Flags} (hQ : Q f)
    (hx : exec i s = .next (finish len ticks { s with flags := f })) : RunsToFlags i s len ticks Q :=
  ⟨f, hQ, runs_of_finish rfl hx⟩

end

/-- The result of `DAA` on the addition path, with the corrections guarded by `N = 0` as R201 selects them. -/
theorem daa8_res_add {a : Byte} {f : Flags} (hn : f.n = false) :
    (daa8 a f).res.toNat =
      (a.toNat + (if f.h = true ∨ (f.n = false ∧ a.toNat % 16 > 9) then 0x06 else 0) +
        (if f.c = true ∨ (f.n = false ∧ a.toNat > 0x99) then 0x60 else 0)) % 256 := by
  simpa only [hn, true_and] using daa8_add hn

/-- The result of `DAA` on the subtraction path, where the guards leave HF and CY to select the corrections (R201). -/
theorem daa8_res_sub {a : Byte} {f : Flags} (hn : f.n = true) :
    ((daa8 a f).res.toNat : Int) =
      ((a.toNat : Int) - ((if f.h = true ∨ (f.n = false ∧ a.toNat % 16 > 9) then 0x06 else 0 : Nat) : Int) -
        ((if f.c = true ∨ (f.n = false ∧ a.toNat > 0x99) then 0x60 else 0 : Nat) : Int)) % 256 := by
  simpa [hn] using daa8_sub hn

theorem daa8_zero (a : Byte) (f : Flags) : (daa8 a f).flags.z = true ↔ (daa8 a f).res = 0 := decide_eq_true_iff

end Sys2Proof.Machine
end

section
/-! PROOFS. 8-bit arithmetic and logic (42_alu8.md): where an opcode has a register field, its encoding for every register;
then the statements, whose clauses come in pairs: an instruction's encoding, and its run, which is the law of the ALU
operation that the arm finishes. -/

namespace Sys2Proof.Machine

/-- Row `y` of the ALU map with a register operand (R117). -/
theorem encodes_aluR (y : Fin 8) (r : Reg8) :
    Encodes [BitVec.ofNat 8 (0b10000000 + 8 * y.val + r.code)] (decodeAluR y.val r) := by
  fin_cases y <;> cases r <;> exact encodes_one rfl fun _ _ => rfl

theorem encodes_incR (r : Reg8) : Encodes [BitVec.ofNat 8 (0b00000100 + 8 * r.code)] (.incR r) := by
  cases r <;> exact encodes_one rfl fun _ _ => rfl

theorem encodes_decR (r : Reg8) : Encodes [BitVec.ofNat 8 (0b00000101 + 8 * r.code)] (.decR r) := by
  cases r <;> exact encodes_one rfl fun _ _ => rfl

/-- Settles O14: each arm writes A and the flags from `add8`, whose law is `add8_spec`. -/
theorem addAdc : Obligations.AddAdc := by
  intro s src n
  refine ⟨encodes_aluR 0 src, ?_, encodes_one rfl fun _ _ => rfl, ?_, encodes_two rfl fun _ => rfl, ?_,
    encodes_aluR 1 src, ?_, encodes_one rfl fun _ _ => rfl, ?_, encodes_two rfl fun _ => rfl, ?_⟩
  all_goals exact runsToA_of_finish (add8_spec ..) rfl

/-- Settles O15: each arm writes A and the flags from `sub8`, whose law is `sub8_spec`. -/
theorem subSbc : Obligations.SubSbc := by
  intro s src n
  refine ⟨encodes_aluR 2 src, ?_, encodes_one rfl fun _ _ => rfl, ?_, encodes_two rfl fun _ => rfl, ?_,
    encodes_aluR 3 src, ?_, encodes_one rfl fun _ _ => rfl, ?_, encodes_two rfl fun _ => rfl, ?_⟩
  all_goals exact runsToA_of_finish (sub8_spec ..) rfl

/-- Settles O16: each arm writes A and the flags from `and8`, `xor8` or `or8`, by the law of that operation. -/
theorem logic : Obligations.Logic := by
  intro s src n
  refine ⟨encodes_aluR 4 src, ?andR, encodes_one rfl fun _ _ => rfl, ?andHl, encodes_two rfl fun _ => rfl, ?andN,
    encodes_aluR 5 src, ?xorR, encodes_one rfl fun _ _ => rfl, ?xorHl, encodes_two rfl fun _ => rfl, ?xorN,
    encodes_aluR 6 src, ?orR, encodes_one rfl fun _ _ => rfl, ?orHl, encodes_two rfl fun _ => rfl, ?orN⟩
  case andR | andHl | andN => exact runsToA_of_finish (and8_spec ..) rfl
  case xorR | xorHl | xorN => exact runsToA_of_finish (xor8_spec ..) rfl
  case orR | orHl | orN => exact runsToA_of_finish (or8_spec ..) rfl

/-- Settles O17: `CP` finishes the flags of `sub8` alone (`cmp_spec`); `INC` and `DEC` finish the write of the register or
of the byte at HL from `inc8` or `dec8`, which keep CY. -/
theorem compareIncDec : Obligations.CompareIncDec := by
  intro s r n cmp inc dec
  refine ⟨encodes_aluR 7 r, ?cpR, encodes_one rfl fun _ _ => rfl, ?cpHl, encodes_two rfl fun _ => rfl, ?cpN,
    encodes_incR r, ?incR, encodes_one rfl fun _ _ => rfl, ?incHl,
    encodes_decR r, ?decR, encodes_one rfl fun _ _ => rfl, ?decHl⟩
  case cpR | cpHl | cpN => exact runsToFlags_of_finish (cmp_spec ..) rfl
  case incR => exact runsToReg_of_finish (inc8_spec ..) rfl
  case incHl => exact runsToHl_of_finish (inc8_spec ..) rfl
  case decR => exact runsToReg_of_finish (dec8_spec ..) rfl
  case decHl => exact runsToHl_of_finish (dec8_spec ..) rfl

/-- Settles O18: `DAA` finishes `daa8`, by the laws of its two paths and of its carry; the other three write the flags,
and `CPL` A, outright. -/
theorem daaCplScfCcf : Obligations.DaaCplScfCcf := by
  intro s low high
  refine ⟨encodes_one rfl fun _ _ => rfl, ?daa, encodes_one rfl fun _ _ => rfl, ?cpl,
    encodes_one rfl fun _ _ => rfl, ?scf, encodes_one rfl fun _ _ => rfl, ?ccf⟩
  case daa =>
    exact runsToA_of_finish (o := daa8 s.a s.flags)
      ⟨daa8_res_add, daa8_res_sub, daa8_zero _ _, rfl, rfl, daa8_carry _ _⟩ rfl
  case cpl | scf | ccf => exact runs_of_finish rfl rfl

end Sys2Proof.Machine
end

section
/-! SUPPORT. The law of the 16-bit addition: the sum of the words, with the flags of the exact integer sum (R210). -/

namespace Sys2Proof.Machine

theorem add16_eq (x v : Word) (f : Flags) :
    add16 x v f =
      (x + v,
        { z := f.z
          n := false
          h := decide (x.toNat % 0x1000 + v.toNat % 0x1000 > 0xFFF)
          c := decide (x.toNat + v.toNat > 0xFFFF) }) := by
  rw [add16, ← BitVec.add_def]

end Sys2Proof.Machine
end

section
/-! PROOFS. 16-bit arithmetic (43_alu16.md): where an opcode has a pair field, its encoding for every pair; then the
statement, whose clauses come in pairs: an instruction's encoding, and its run. -/

namespace Sys2Proof.Machine

theorem encodes_addHlRr (rr : Pair) : Encodes [BitVec.ofNat 8 (0b00001001 + 16 * rr.code)] (.addHlRr rr) := by
  cases rr <;> exact encodes_one rfl fun _ _ => rfl

theorem encodes_incRr (rr : Pair) : Encodes [BitVec.ofNat 8 (0b00000011 + 16 * rr.code)] (.incRr rr) := by
  cases rr <;> exact encodes_one rfl fun _ _ => rfl

theorem encodes_decRr (rr : Pair) : Encodes [BitVec.ofNat 8 (0b00001011 + 16 * rr.code)] (.decRr rr) := by
  cases rr <;> exact encodes_one rfl fun _ _ => rfl

theorem runs_addHlRr (s : State) (rr : Pair) :
    Runs (.addHlRr rr) s 1 8
      { setPair s .hl (add16 (regHL s) (getPair s rr) s.flags).1 with
        flags := (add16 (regHL s) (getPair s rr) s.flags).2 } :=
  runs_of_finish (setPair_pc ..) rfl

/-- Settles O21: each arm is `finish` after the write of one pair, which leaves PC (`setPair_pc`). `ADD HL,rr` writes
the sum and flags of `add16_eq`; `ADD SP,e` the flags of `spFlags_eq`. -/
theorem wordArithmetic : Obligations.WordArithmetic := by
  intro s rr e
  refine ⟨encodes_addHlRr rr, ?addHlRr, encodes_incRr rr, ?incRr, encodes_decRr rr, ?decRr,
    encodes_two rfl fun _ => rfl, ?addSpE⟩
  case addHlRr =>
    have h := runs_addHlRr s rr
    rwa [add16_eq] at h
  case incRr | decRr => exact runs_of_finish (setPair_pc ..) rfl
  case addSpE =>
    rw [← spFlags_eq]
    exact runs_of_finish rfl rfl

end Sys2Proof.Machine
end

section
/-! SUPPORT. The encodings after the byte 0xCB, read off the fields of the second byte (R112, R121). -/

namespace Sys2Proof.Machine

/-- The fields of a byte put together from them (R112). -/
theorem fields_ofNat {x y z : Nat} (hx : x < 4) (hy : y < 8) (hz : z < 8) :
    fieldX (BitVec.ofNat 8 (64 * x + 8 * y + z)) = x ∧ fieldY (BitVec.ofNat 8 (64 * x + 8 * y + z)) = y ∧
      fieldZ (BitVec.ofNat 8 (64 * x + 8 * y + z)) = z := by
  simp only [fieldX, fieldY, fieldZ, BitVec.toNat_ofNat]
  omega

theorem code_lt_eight (r : Reg8) : r.code < 8 := by cases r <;> decide

@[simp] theorem ofCode_code (r : Reg8) : Reg8.ofCode r.code = some r := by cases r <;> rfl

theorem encodes_cb (op2 : Byte) : Encodes [0xCB, op2] (decodeCb op2) := encodes_two rfl fun _ => rfl

/-- Row `y` of the rotate map with a register operand (R118). -/
theorem encodes_rotR (y : Fin 8) (r : Reg8) :
    Encodes [0xCB, BitVec.ofNat 8 (0b00000000 + 8 * y.val + r.code)] (decodeRotR y.val r) := by
  obtain ⟨hx, hy, hz⟩ := fields_ofNat (show 0 < 4 by decide) y.isLt (code_lt_eight r)
  have h := encodes_cb (BitVec.ofNat 8 (0b00000000 + 8 * y.val + r.code))
  rw [decodeCb, hx, hy, hz, ofCode_code] at h
  exact h

/-- A block `x` of the prefixed map whose rows take a bit number and a register. -/
theorem encodes_cbBitR {x : Nat} {f : BitVec 3 → Reg8 → Instr} (hx : x < 4)
    (hf : ∀ op2 r, fieldX op2 = x → Reg8.ofCode (fieldZ op2) = some r →
      decodeCb op2 = f (BitVec.ofNat 3 (fieldY op2)) r) (b : BitVec 3) (r : Reg8) :
    Encodes [0xCB, BitVec.ofNat 8 (64 * x + 8 * b.toNat + r.code)] (f b r) := by
  obtain ⟨hX, hY, hZ⟩ := fields_ofNat hx b.isLt (code_lt_eight r)
  have h := encodes_cb (BitVec.ofNat 8 (64 * x + 8 * b.toNat + r.code))
  rwa [hf _ r hX (by rw [hZ, ofCode_code]), hY, BitVec.ofNat_toNat, BitVec.setWidth_eq] at h

/-- A block `x` of the prefixed map whose rows take a bit number, at the operand code 6 of `(HL)` (R113). -/
theorem encodes_cbBitHl {x : Nat} {f : BitVec 3 → Instr} (hx : x < 4)
    (hf : ∀ op2, fieldX op2 = x → Reg8.ofCode (fieldZ op2) = none → decodeCb op2 = f (BitVec.ofNat 3 (fieldY op2)))
    (b : BitVec 3) : Encodes [0xCB, BitVec.ofNat 8 (64 * x + 6 + 8 * b.toNat)] (f b) := by
  obtain ⟨hX, hY, hZ⟩ := fields_ofNat hx b.isLt (show 6 < 8 by decide)
  have h := encodes_cb (BitVec.ofNat 8 (64 * x + 8 * b.toNat + 6))
  rwa [hf _ hX (by rw [hZ]; rfl), hY, BitVec.ofNat_toNat, BitVec.setWidth_eq, Nat.add_right_comm] at h

end Sys2Proof.Machine
end

section
/-! PROOFS. Rotates, shifts and bit operations (44_rotate_shift_bit.md). The clauses come in pairs: an instruction's
encoding, and its run, which for a rotate or shift is the law of the operation that the arm finishes. -/

namespace Sys2Proof.Machine

/-- Settles O22: each arm writes A and the flags from `rotAOut`, by the law of its rotate. -/
theorem accumulatorRotates : Obligations.AccumulatorRotates := by
  intro s
  refine ⟨encodes_one rfl fun _ _ => rfl, ?rlca, encodes_one rfl fun _ _ => rfl, ?rla,
    encodes_one rfl fun _ _ => rfl, ?rrca, encodes_one rfl fun _ _ => rfl, ?rra⟩
  case rlca => exact runsToA_of_finish (rotAOut_spec (rot_rlc ..)) rfl
  case rla => exact runsToA_of_finish (rotAOut_spec (rot_rl ..)) rfl
  case rrca => exact runsToA_of_finish (rotAOut_spec (rot_rrc ..)) rfl
  case rra => exact runsToA_of_finish (rotAOut_spec (rot_rr ..)) rfl

/-- Settles O23: each arm writes its operand and the flags from `rotOut`, by the law of its rotate. -/
theorem prefixedRotates : Obligations.PrefixedRotates := by
  intro s r v m
  refine ⟨encodes_rotR 0 r, ?rlcR, encodes_cb _, ?rlcHl, encodes_rotR 1 r, ?rrcR, encodes_cb _, ?rrcHl,
    encodes_rotR 2 r, ?rlR, encodes_cb _, ?rlHl, encodes_rotR 3 r, ?rrR, encodes_cb _, ?rrHl⟩
  case rlcR => exact runsToReg_of_finish (rotOut_spec (rot_rlc ..)) rfl
  case rlcHl => exact runsToHl_of_finish (rotOut_spec (rot_rlc ..)) rfl
  case rrcR => exact runsToReg_of_finish (rotOut_spec (rot_rrc ..)) rfl
  case rrcHl => exact runsToHl_of_finish (rotOut_spec (rot_rrc ..)) rfl
  case rlR => exact runsToReg_of_finish (rotOut_spec (rot_rl ..)) rfl
  case rlHl => exact runsToHl_of_finish (rotOut_spec (rot_rl ..)) rfl
  case rrR => exact runsToReg_of_finish (rotOut_spec (rot_rr ..)) rfl
  case rrHl => exact runsToHl_of_finish (rotOut_spec (rot_rr ..)) rfl

/-- Settles O24: each arm writes its operand and the flags from `rotOut`, by the law of its shift or of `SWAP`. -/
theorem shiftsAndSwap : Obligations.ShiftsAndSwap := by
  intro s r v m
  refine ⟨encodes_rotR 4 r, ?slaR, encodes_cb _, ?slaHl, encodes_rotR 5 r, ?sraR, encodes_cb _, ?sraHl,
    encodes_rotR 6 r, ?swapR, encodes_cb _, ?swapHl, encodes_rotR 7 r, ?srlR, encodes_cb _, ?srlHl⟩
  case slaR => exact runsToReg_of_finish (rotOut_spec (rot_sla ..)) rfl
  case slaHl => exact runsToHl_of_finish (rotOut_spec (rot_sla ..)) rfl
  case sraR => exact runsToReg_of_finish (rotOut_spec (rot_sra ..)) rfl
  case sraHl => exact runsToHl_of_finish (rotOut_spec (rot_sra ..)) rfl
  case swapR => exact runsToReg_of_finish (rotOut_spec (rot_swap ..)) rfl
  case swapHl => exact runsToHl_of_finish (rotOut_spec (rot_swap ..)) rfl
  case srlR => exact runsToReg_of_finish (rotOut_spec (rot_srl ..)) rfl
  case srlHl => exact runsToHl_of_finish (rotOut_spec (rot_srl ..)) rfl

/-- Settles O25: `BIT` finishes a write of the flags alone, `RES` and `SET` one write of the register or of the byte at
HL, which leaves PC. -/
theorem bitResSet : Obligations.BitResSet := by
  intro s b r m mask bitFl
  refine ⟨encodes_cbBitR (x := 1) (by decide) (fun _ _ hx hz => by simp only [decodeCb, hx, hz]) b r, ?bitBR,
    encodes_cbBitHl (x := 1) (by decide) (fun _ hx hz => by simp only [decodeCb, hx, hz]) b, ?bitBHl,
    encodes_cbBitR (x := 2) (by decide) (fun _ _ hx hz => by simp only [decodeCb, hx, hz]) b r, ?resBR,
    encodes_cbBitHl (x := 2) (by decide) (fun _ hx hz => by simp only [decodeCb, hx, hz]) b, ?resBHl,
    encodes_cbBitR (x := 3) (by decide) (fun _ _ hx hz => by simp only [decodeCb, hx, hz]) b r, ?setBR,
    encodes_cbBitHl (x := 3) (by decide) (fun _ hx hz => by simp only [decodeCb, hx, hz]) b, ?setBHl⟩
  case bitBR | bitBHl => exact runs_of_finish rfl rfl
  case resBR | setBR => exact runs_of_finish (setReg_pc ..) rfl
  case resBHl | setBHl => exact runs_of_finish (memWrite_pc ..) rfl

end Sys2Proof.Machine
end

section
/-! SUPPORT. A condition as the statements write it, over the flags, and the two outcomes of an arm that tests it. -/

namespace Sys2Proof.Machine

/-- What the condition `cc` asks of the flags (R116), in the form the statements write out. -/
def CondMet (s : State) : Cond → Prop
  | .nz => s.flags.z = false
  | .z => s.flags.z = true
  | .nc => s.flags.c = false
  | .c => s.flags.c = true

theorem condHolds_iff (s : State) (cc : Cond) : condHolds s cc = true ↔ CondMet s cc := by
  cases cc
  case nz | nc => exact iff_of_eq (Bool.not_eq_true' _)
  case z | c => exact Iff.rfl

section
variable {i : Instr} {s t : State} {cc : Cond} {target : Word} {len taken notTaken : Nat}
  (hx : exec i s = .next (if condHolds s cc then finishAt target taken t else finish len notTaken s))
include hx

theorem jumps_of_condMet (hc : CondMet s cc) : Jumps i s target taken t := by
  rw [Jumps, hx, if_pos ((condHolds_iff s cc).mpr hc), finishAt]

theorem runs_of_not_condMet (hc : ¬ CondMet s cc) : Runs i s len notTaken s :=
  runs_of_finish rfl (by rw [hx, if_neg (mt (condHolds_iff s cc).mp hc)])

end

end Sys2Proof.Machine
end

section
/-! PROOFS. Control transfer (45_control_flow.md): where an opcode has a condition field or a restart number, its encoding
for every value of it; then the statements, whose clauses are an instruction's encoding and its run, or its two runs by the
condition. -/

namespace Sys2Proof.Machine

theorem encodes_jpCcNn (cc : Cond) (nn : Word) :
    Encodes [BitVec.ofNat 8 (0b11000010 + 8 * cc.code), BitVec.extractLsb' 0 8 nn, BitVec.extractLsb' 8 8 nn]
      (.jpCcNn cc nn) := by
  cases cc <;> exact encodes_word rfl (fun _ _ => rfl) nn

theorem encodes_jrCcE (cc : Cond) (e : Byte) :
    Encodes [BitVec.ofNat 8 (0b00100000 + 8 * cc.code), e] (.jrCcE cc e) := by
  cases cc <;> exact encodes_two rfl fun _ => rfl

theorem encodes_callCcNn (cc : Cond) (nn : Word) :
    Encodes [BitVec.ofNat 8 (0b11000100 + 8 * cc.code), BitVec.extractLsb' 0 8 nn, BitVec.extractLsb' 8 8 nn]
      (.callCcNn cc nn) := by
  cases cc <;> exact encodes_word rfl (fun _ _ => rfl) nn

theorem encodes_rstT (t : BitVec 3) : Encodes [BitVec.ofNat 8 (0b11000111 + 8 * t.toNat)] (.rstT t) := by
  obtain ⟨y⟩ := t
  fin_cases y <;> exact encodes_one rfl fun _ _ => rfl

/-- Settles O26: an unconditional arm sets PC outright; a conditional arm does so where its condition is met and is
`finish` of the state before where it is not. -/
theorem jumpForms : Obligations.JumpForms := by
  intro s cc nn e holds
  refine ⟨encodes_word rfl (fun _ _ => rfl) nn, ?jpNn, encodes_jpCcNn cc nn, ?jpTaken, ?jpNotTaken,
    encodes_one rfl fun _ _ => rfl, ?jpHl, encodes_two rfl fun _ => rfl, ?jrE, encodes_jrCcE cc e, ?jrTaken, ?jrNotTaken⟩
  case jpNn | jpHl | jrE => exact rfl
  case jpTaken | jrTaken => exact jumps_of_condMet (cc := cc) rfl
  case jpNotTaken | jrNotTaken => exact runs_of_not_condMet (cc := cc) rfl

/-- Settles O27: each arm that is taken jumps after `push16` of the address past the instruction, which is `Pushed`; the
call not taken is `finish` of the state before. -/
theorem calls : Obligations.Calls := by
  intro s cc nn t holds
  refine ⟨encodes_word rfl (fun _ _ => rfl) nn, ?callNn, encodes_callCcNn cc nn, ?taken, ?notTaken,
    encodes_rstT t, ?rstT⟩
  case callNn | rstT => exact rfl
  case taken => exact jumps_of_condMet (cc := cc) rfl
  case notTaken => exact runs_of_not_condMet (cc := cc) rfl

end Sys2Proof.Machine
end

section
/-! SUPPORT. What the 256 instructions of the secondary map (R121) have in common. -/

namespace Sys2Proof.Machine

/-- How an instruction of the secondary map that takes the state `s` to `t` leaves the program counter, the ticks and the
fault record. -/
structure PrefixedFrame (s t : State) : Prop where
  pc : t.pc = s.pc + 2
  cycles : t.cycles = 8 ∨ t.cycles = 12 ∨ t.cycles = 16
  halted : t.halted = s.halted
  fault : t.fault = s.fault

/-- An arm that ends in `finish` past two bytes keeps to the frame when the effect it finishes does not touch PC, `halted`
or `fault`. -/
theorem finish_prefixedFrame {s t : State} {ticks : Nat} (hpc : t.pc = s.pc) (hhalted : t.halted = s.halted)
    (hfault : t.fault = s.fault) (hticks : ticks = 8 ∨ ticks = 12 ∨ ticks = 16) :
    PrefixedFrame s (finish 2 ticks t) :=
  ⟨congrArg (· + 2#16) hpc, hticks, hhalted, hfault⟩

theorem exec_decodeRotR (s : State) (r : Reg8) (y : Nat) :
    ∃ o, exec (decodeRotR y r) s = .next (finish 2 8 (setRegFlags s r o)) := by
  match y with
  | 0 | 1 | 2 | 3 | 4 | 5 | 6 => exact ⟨_, rfl⟩
  | n + 7 => exact ⟨_, rfl⟩

theorem exec_decodeRotHl (s : State) (y : Nat) :
    ∃ o, exec (decodeRotHl y) s = .next (finish 2 16 (setHLFlags s o)) := by
  match y with
  | 0 | 1 | 2 | 3 | 4 | 5 | 6 => exact ⟨_, rfl⟩
  | n + 7 => exact ⟨_, rfl⟩

/-- Every instruction of the secondary map completes within `PrefixedFrame`. The cases are the map's own: the block `x`
(rotates and shifts, `BIT`, `RES`, `SET`), and a register or the byte at HL as the operand. -/
theorem exec_decodeCb (op2 : Byte) (s : State) : ∃ t, exec (decodeCb op2) s = .next t ∧ PrefixedFrame s t := by
  unfold decodeCb
  generalize Reg8.ofCode (fieldZ op2) = z
  generalize fieldX op2 = x
  match x, z with
  | 0, some r =>
    obtain ⟨o, ho⟩ := exec_decodeRotR s r (fieldY op2)
    exact ⟨_, ho, finish_prefixedFrame (setRegFlags_pc ..) (setRegFlags_halted ..) (setRegFlags_fault ..) (by decide)⟩
  | 0, none =>
    obtain ⟨o, ho⟩ := exec_decodeRotHl s (fieldY op2)
    exact ⟨_, ho, finish_prefixedFrame (setHLFlags_pc ..) (setHLFlags_halted ..) (setHLFlags_fault ..) (by decide)⟩
  | 1, some r | 1, none => exact ⟨_, rfl, finish_prefixedFrame rfl rfl rfl (by decide)⟩
  | 2, some r | n + 3, some r =>
    exact ⟨_, rfl, finish_prefixedFrame (setReg_pc ..) (setReg_halted ..) (setReg_fault ..) (by decide)⟩
  | 2, none | n + 3, none =>
    exact ⟨_, rfl, finish_prefixedFrame (writeHL_pc ..) (writeHL_halted ..) (writeHL_fault ..) (by decide)⟩

end Sys2Proof.Machine
end

section
/-! PROOFS. The prefix byte (46_misc_control.md R276). -/

namespace Sys2Proof.Machine

/-- Settles O31: the decoder and the prefix row both go by the secondary map (`encodes_cb`, `execPrefixCb_eq`), and each of
its instructions completes (`exec_decodeCb`). -/
theorem prefixCb : Obligations.PrefixCb := by
  intro s op2 rest
  obtain ⟨t, ht, frame⟩ := exec_decodeCb op2 s
  exact ⟨encodes_cb op2 rest, t, ht, (execPrefixCb_eq op2 s).trans ht,
    frame.pc, frame.cycles, frame.halted, frame.fault⟩

end Sys2Proof.Machine
end

section
/-! SUPPORT. Each part of a step keeps a good state good: the CPU's part, the dispatcher, the timer, the PPU and the frame
accounting. -/

namespace Sys2Proof.Machine

theorem Inv.memOk {s : State} (h : Inv s) : MemOk s.mem := ⟨h.memWf, h.memBacked⟩

theorem CpuFrame.inv {s t : State} (f : CpuFrame s t) (h : Inv s) : Inv t where
  memWf := (f.memOk h.memOk).1
  memBacked := (f.memOk h.memOk).2
  fbWf := f.fb ▸ h.fbWf
  lineCycles_lt := f.lineCycles ▸ h.lineCycles_lt
  tsub_lt := f.tsub ▸ h.tsub_lt
  frameCycles_lt := f.frameCycles ▸ h.frameCycles_lt
  visible_le := f.visible ▸ h.visible_le
  fault_iff := by
    obtain ⟨hh, hf⟩ | ⟨hh, op, hf⟩ := f.fault
    · rw [hh, hf, h.fault_iff]
    · rw [hh, hf, Option.isSome_some]
  cycles_le := f.cycles.2

theorem serviceInterrupts_inv {s : State} (h : Inv s) : Inv (serviceInterrupts s) where
  memWf := (serviceInterrupts_ok h.memOk).1
  memBacked := (serviceInterrupts_ok h.memOk).2
  fbWf := by simpa using h.fbWf
  lineCycles_lt := by simpa using h.lineCycles_lt
  tsub_lt := by simpa using h.tsub_lt
  frameCycles_lt := by simpa using h.frameCycles_lt
  visible_le := by simpa using h.visible_le
  fault_iff := by simpa using h.fault_iff
  cycles_le := by simpa using h.cycles_le

theorem timerTick_inv {s : State} (n : Nat) (h : Inv s) : Inv (timerTick n s) where
  memWf := (timerTick_ok n h.memOk).1
  memBacked := (timerTick_ok n h.memOk).2
  fbWf := by simpa using h.fbWf
  lineCycles_lt := by simpa using h.lineCycles_lt
  tsub_lt := timerTick_tsub_lt n h.tsub_lt
  frameCycles_lt := by simpa using h.frameCycles_lt
  visible_le := by simpa using h.visible_le
  fault_iff := by simpa using h.fault_iff
  cycles_le := by simpa using h.cycles_le

theorem ppuUpdate_inv {s : State} {n : Nat} (hn : n ≤ 24) (h : Inv s) : Inv (ppuUpdate n s) where
  memWf := (ppuUpdate_ok n h.memOk).1
  memBacked := (ppuUpdate_ok n h.memOk).2
  fbWf := ppuUpdate_fb_wf n h.fbWf
  lineCycles_lt := ppuUpdate_lineCycles_lt h.lineCycles_lt hn
  tsub_lt := by simpa using h.tsub_lt
  frameCycles_lt := by simpa using h.frameCycles_lt
  visible_le := ppuUpdate_visible_le n h.visible_le
  fault_iff := by simpa using h.fault_iff
  cycles_le := by simpa using h.cycles_le

theorem frameAccount_inv {s : State} {n : Nat} (hn : n ≤ 24) (h : Inv s) : Inv (frameAccount n s) where
  memWf := (frameAccount_ok n h.memOk).1
  memBacked := (frameAccount_ok n h.memOk).2
  fbWf := by simpa using h.fbWf
  lineCycles_lt := by simpa using h.lineCycles_lt
  tsub_lt := by simpa using h.tsub_lt
  frameCycles_lt := frameAccount_frameCycles_lt h.frameCycles_lt hn
  visible_le := by simpa using h.visible_le
  fault_iff := by simpa using h.fault_iff
  cycles_le := by simpa using h.cycles_le

/-- What follows the CPU runs with the ticks of its step, which a good state bounds by 24 (R420). -/
theorem afterCpu_inv {s : State} (h : Inv s) : Inv (afterCpu s) :=
  frameAccount_inv h.cycles_le.1 (ppuUpdate_inv h.cycles_le.1 (timerTick_inv _ (serviceInterrupts_inv h)))

end Sys2Proof.Machine
end

section
/-! PROOFS. The invariant of the machine: it holds after reset and every step keeps it. -/

namespace Sys2Proof.Machine

/-- Settles O60: the CPU's part always answers (`cpuStep_next`), and it and what follows it keep a good state good. -/
theorem stepKeepsGood : Obligations.StepKeepsGood := by
  intro s h
  obtain ⟨t, ht, frame⟩ := cpuStep_next s
  exact ⟨afterCpu t, step_of_cpuStep ht, afterCpu_inv (frame.inv h)⟩

/-- Settles O59: the lists are empty and the counters 0. -/
theorem resetIsGood : Obligations.ResetIsGood where
  memWf := rfl
  memBacked := rfl
  fbWf := rfl
  lineCycles_lt := by decide
  tsub_lt := by decide
  frameCycles_lt := by decide
  visible_le := by decide
  fault_iff := rfl
  cycles_le := by decide

end Sys2Proof.Machine
end

section
/-! SUPPORT. The encoder and the decoder against each other: the bytes that each map of 30_encoding.md answers an
instruction for are the bytes of that instruction's encoding. -/

namespace Sys2Proof.Machine

theorem encodes_retCc (cc : Cond) : Encodes [BitVec.ofNat 8 (0b11000000 + 8 * cc.code)] (.retCc cc) := by
  cases cc <;> exact encodes_one rfl fun _ _ => rfl

/-- The encoder's bytes are the instruction's, whatever follows. The cases are the formats of R111: one byte, a byte and
an immediate, a byte and a word, and the secondary map after 0xCB. -/
theorem encodes_encode (i : Instr) (h : i.wellFormed = true) : Encodes (encode i) i := by
  cases i
  -- a register, a pair or a condition in the opcode byte
  case ldRR dst src => exact encodes_ldRR dst src
  case ldRHl r => cases r <;> exact encodes_one rfl fun _ _ => rfl
  case ldHlR r => exact encodes_ldHlR r
  case addR r => exact encodes_aluR 0 r
  case adcR r => exact encodes_aluR 1 r
  case subR r => exact encodes_aluR 2 r
  case sbcR r => exact encodes_aluR 3 r
  case andR r => exact encodes_aluR 4 r
  case xorR r => exact encodes_aluR 5 r
  case orR r => exact encodes_aluR 6 r
  case cpR r => exact encodes_aluR 7 r
  case incR r | decR r => cases r <;> exact encodes_one rfl fun _ _ => rfl
  case addHlRr rr | incRr rr | decRr rr => cases rr <;> exact encodes_one rfl fun _ _ => rfl
  case pushRr qq | popRr qq => cases qq <;> exact encodes_one rfl fun _ _ => rfl
  case retCc cc => exact encodes_retCc cc
  case rstT t => obtain ⟨y⟩ := t; fin_cases y <;> exact encodes_one rfl fun _ _ => rfl
  -- an immediate after the opcode byte
  case ldRN r n => cases r <;> exact encodes_two rfl fun _ => rfl
  case jrCcE cc e => cases cc <;> exact encodes_two rfl fun _ => rfl
  case ldHlN | ldhAN | ldhNA | ldHlSpE | addN | adcN | subN | sbcN | andN | xorN | orN | cpN | addSpE | jrE | stop =>
    exact encodes_two rfl fun _ => rfl
  -- a word after the opcode byte
  case ldRrNn rr nn => cases rr <;> exact encodes_word rfl (fun _ _ => rfl) nn
  case jpCcNn cc nn => cases cc <;> exact encodes_word rfl (fun _ _ => rfl) nn
  case callCcNn cc nn => cases cc <;> exact encodes_word rfl (fun _ _ => rfl) nn
  case ldANn nn | ldNnA nn | ldNnSp nn | jpNn nn | callNn nn => exact encodes_word rfl (fun _ _ => rfl) nn
  -- the secondary map
  case rlcR r => exact encodes_rotR 0 r
  case rrcR r => exact encodes_rotR 1 r
  case rlR r => exact encodes_rotR 2 r
  case rrR r => exact encodes_rotR 3 r
  case slaR r => exact encodes_rotR 4 r
  case sraR r => exact encodes_rotR 5 r
  case swapR r => exact encodes_rotR 6 r
  case srlR r => exact encodes_rotR 7 r
  case rlcHl | rrcHl | rlHl | rrHl | slaHl | sraHl | swapHl | srlHl => exact encodes_cb _
  case bitBR b r =>
    exact encodes_cbBitR (x := 1) (by decide) (fun _ _ hx hz => by simp only [decodeCb, hx, hz]) b r
  case resBR b r =>
    exact encodes_cbBitR (x := 2) (by decide) (fun _ _ hx hz => by simp only [decodeCb, hx, hz]) b r
  case setBR b r =>
    exact encodes_cbBitR (x := 3) (by decide) (fun _ _ hx hz => by simp only [decodeCb, hx, hz]) b r
  case bitBHl b | resBHl b | setBHl b =>
    obtain ⟨y⟩ := b
    fin_cases y <;> exact encodes_two rfl fun _ => rfl
  case prefixCb => cases h
  -- the opcode byte alone
  all_goals exact encodes_one rfl fun _ _ => rfl

theorem fields_opByte (x : Fin 4) (y z : Fin 8) :
    fieldX (opByte x y z) = x ∧ fieldY (opByte x y z) = y ∧ fieldZ (opByte x y z) = z :=
  fields_ofNat x.isLt y.isLt z.isLt

/-- Every byte is put together from its fields (R112). -/
theorem exists_opByte (b : Byte) : ∃ (x : Fin 4) (y z : Fin 8), b = opByte x y z := by
  have hb := b.isLt
  refine ⟨⟨b.toNat / 64, by omega⟩, ⟨b.toNat / 8 % 8, by omega⟩, ⟨b.toNat % 8, by omega⟩, ?_⟩
  apply BitVec.eq_of_toNat_eq
  simp only [opByte, BitVec.toNat_ofNat]
  omega

theorem encode_decodeX0 (y z : Fin 8) (nn : Word) :
    encode (decodeX0 y z (loByte nn) nn) =
      [opByte 0 y z, loByte nn, hiByte nn].take (lengthOf (opByte 0 y z)) := by
  fin_cases y <;> fin_cases z <;> rfl

theorem encode_decodeX1 (y z : Fin 8) (nn : Word) :
    encode (decodeX1 y z) = [opByte 1 y z, loByte nn, hiByte nn].take (lengthOf (opByte 1 y z)) := by
  fin_cases y <;> fin_cases z <;> rfl

theorem encode_decodeX2 (y z : Fin 8) (nn : Word) :
    encode (decodeX2 y z) = [opByte 2 y z, loByte nn, hiByte nn].take (lengthOf (opByte 2 y z)) := by
  fin_cases y <;> fin_cases z <;> rfl

theorem encode_decodeX3 (y z : Fin 8) (nn : Word) :
    encode (decodeX3 y z (loByte nn) nn) =
      [opByte 3 y z, loByte nn, hiByte nn].take (lengthOf (opByte 3 y z)) := by
  fin_cases y <;> fin_cases z <;> rfl

theorem encode_decodeCb (op2 : Byte) : encode (decodeCb op2) = [0xCB, op2] := by
  revert op2
  decide

/-- The instruction read from a window of three bytes has as its encoding as many of them as the first byte says (R110). -/
theorem encode_decodeWindow (b0 b1 b2 : Byte) :
    encode (decodeWindow b0 b1 b2) = [b0, b1, b2].take (lengthOf b0) := by
  by_cases hcb : b0 = 0xCB#8
  · subst hcb
    exact encode_decodeCb b1
  obtain ⟨nn, hlo, hhi⟩ : ∃ nn, loByte nn = b1 ∧ hiByte nn = b2 :=
    ⟨mkWord b2 b1, loByte_mkWord .., hiByte_mkWord ..⟩
  subst hlo hhi
  obtain ⟨x, y, z, rfl⟩ := exists_opByte b0
  obtain ⟨hx, hy, hz⟩ := fields_opByte x y z
  unfold decodeWindow
  rw [if_neg hcb, hx, hy, hz, mkWord_hi_lo]
  match x with
  | 0 => exact encode_decodeX0 y z nn
  | 1 => exact encode_decodeX1 y z nn
  | 2 => exact encode_decodeX2 y z nn
  | 3 => exact encode_decodeX3 y z nn

theorem head?_encode_decodeWindow (b0 b1 b2 : Byte) : (encode (decodeWindow b0 b1 b2)).head? = some b0 := by
  have hl := lengthOf_range b0
  rw [encode_decodeWindow, List.head?_take, if_neg (by omega), List.head?_cons]

theorem wellFormed_iff (i : Instr) : i.wellFormed = true ↔ ∀ op2, i ≠ .prefixCb op2 := by
  cases i <;> simp [Instr.wellFormed]

/-- The decoder answers no row of the byte 0xCB itself: with that first byte it answers a row of the secondary map. -/
theorem decodeWindow_wellFormed (b0 b1 b2 : Byte) : (decodeWindow b0 b1 b2).wellFormed = true := by
  rw [wellFormed_iff]
  intro op2 h
  have hb0 : 0xCB#8 = b0 := by
    have hhead := head?_encode_decodeWindow b0 b1 b2
    rw [h] at hhead
    exact Option.some.inj hhead
  subst hb0
  exact decodeCb_ne_prefix b1 op2 h

/-- The rows of the undefined bytes are encoded by those bytes (R122, R277). -/
theorem encode_of_illegalByte {i : Instr} {op : Byte} (h : illegalByte i = some op) :
    encode i = [op] ∧ op.toNat ∈ [0xD3, 0xDB, 0xDD, 0xE3, 0xE4, 0xEB, 0xEC, 0xED, 0xF4, 0xFC, 0xFD] := by
  cases i <;> cases h <;> decide

theorem lengthOf_eq_two : ∀ b0 : Byte, lengthOf b0 = 2 ↔ b0.toNat ∈ [0x06, 0x0E, 0x10, 0x16, 0x18, 0x1E, 0x20, 0x26,
    0x28, 0x2E, 0x30, 0x36, 0x38, 0x3E, 0xC6, 0xCE, 0xD6, 0xDE, 0xE0, 0xE6, 0xE8, 0xEE, 0xF0, 0xF6, 0xF8, 0xFE, 0xCB] := by
  decide

theorem lengthOf_eq_three : ∀ b0 : Byte, lengthOf b0 = 3 ↔ b0.toNat ∈ [0x01, 0x08, 0x11, 0x21, 0x31, 0xC2, 0xC3, 0xC4,
    0xCA, 0xCC, 0xCD, 0xD2, 0xD4, 0xDA, 0xDC, 0xEA, 0xFA] := by
  decide

end Sys2Proof.Machine
end

section
/-! PROOFS. The encoding (30_encoding.md): the encoder and the decoder are inverse to each other. -/

namespace Sys2Proof.Machine

/-- Settles O2: the encoder's bytes are read back as the instruction, format by format (`encodes_encode`). -/
theorem decodeEncode : Obligations.DecodeEncode := fun i rest h => encodes_encode i h rest

/-- Settles O3: the window holds the encoding of the instruction read from it (`encode_decodeWindow`), and the decoder drops
just those bytes. -/
theorem encodeDecode : Obligations.EncodeDecode := by
  intro bs rest i h
  obtain ⟨b0, tail, rfl, hlen, rfl, rfl⟩ := decode_cases h
  refine ⟨decodeWindow_wellFormed .., ?_⟩
  rw [encode_decodeWindow]
  have hr := lengthOf_range b0
  obtain hl | hl | hl : lengthOf b0 = 1 ∨ lengthOf b0 = 2 ∨ lengthOf b0 = 3 := by omega
  · rw [hl]
    rfl
  · obtain ⟨b1, tail, rfl⟩ := List.exists_cons_of_length_pos (l := tail) (by omega)
    rw [hl]
    rfl
  · obtain ⟨b1, tail, rfl⟩ := List.exists_cons_of_length_pos (l := tail) (by omega)
    rw [List.length_cons] at hlen
    obtain ⟨b2, tail, rfl⟩ := List.exists_cons_of_length_pos (l := tail) (by omega)
    rw [hl]
    rfl

/-- Settles O4: the decoder drops `lengthOf` bytes, and the encoding is what it dropped (`encodeDecode`). -/
theorem lengthFromFirstByte : Obligations.LengthFromFirstByte := by
  intro b0 bs rest i h
  obtain ⟨-, hbytes⟩ := encodeDecode _ _ _ h
  obtain ⟨b, tail, heq, hlen, -, hrest⟩ := decode_cases h
  cases heq
  have hr := lengthOf_range b0
  have htotal : (encode i).length + rest.length = bs.length + 1 := by
    rw [← List.length_append, hbytes, List.length_cons]
  have hdrop : rest.length = bs.length - (lengthOf b0 - 1) := by rw [hrest, List.length_drop]
  have hl : (encode i).length = lengthOf b0 := by omega
  rw [hl]
  exact ⟨by omega, lengthOf_eq_two b0, lengthOf_eq_three b0, by omega⟩

/-- Settles O5: a defined byte's row would be encoded by an undefined one (`encode_of_illegalByte`), but its encoding begins
with the byte decoded. -/
theorem undefinedBytes : Obligations.UndefinedBytes := by
  refine ⟨?_, ?_⟩
  · intro b0 b1 b2 h
    have hb : b0 = BitVec.ofNat 8 b0.toNat := by simp
    rw [hb]
    simp only [List.mem_cons, List.not_mem_nil, or_false] at h
    obtain h | h | h | h | h | h | h | h | h | h | h := h <;> rw [h] <;> rfl
  · intro b0 b1 b2 h
    rw [Option.eq_none_iff_forall_ne_some]
    intro op hop
    obtain ⟨hbytes, hmem⟩ := encode_of_illegalByte hop
    have hhead := head?_encode_decodeWindow b0 b1 b2
    rw [hbytes] at hhead
    cases hhead
    exact h hmem

/-- Settles O1: sixteen computations of the decoder. -/
theorem decodeExamples : Obligations.DecodeExamples :=
  ⟨rfl, rfl, rfl, rfl, rfl, rfl, rfl, rfl, rfl, rfl, rfl, rfl, rfl, rfl, rfl, rfl⟩

end Sys2Proof.Machine
end

section
/-! SUPPORT. The half-carry as a carry into bit 4 (R22, R170), and packed BCD bytes as numbers (R201). -/

namespace Sys2Proof.Machine

/-- The exclusive or of two bytes and of their sum with a carry in has in bit 4 the carry out of the low nibbles. -/
theorem xor_sum_bit4 (x y : Byte) (c : Bool) :
    (x ^^^ y ^^^ BitVec.ofNat 8 (x.toNat + y.toNat + c.toNat)).getLsbD 4 =
      decide (x.toNat % 16 + y.toNat % 16 + c.toNat ≥ 16) := by
  have hsum : BitVec.ofNat 8 (x.toNat + y.toNat + c.toNat) = x + y + BitVec.setWidth 8 (BitVec.ofBool c) := by
    apply BitVec.eq_of_toNat_eq
    cases c <;> simp
  rw [hsum, BitVec.getLsbD_xor, BitVec.getLsbD_xor, BitVec.getLsbD_add_add_bool (by decide), BitVec.carry]
  cases x.getLsbD 4 <;> cases y.getLsbD 4 <;> simp

/-- The subtraction in bytes is the addition that undoes it. -/
theorem sub8_res_add (a b : Byte) (c : Bool) : BitVec.ofNat 8 ((sub8 a b c).res.toNat + b.toNat + c.toNat) = a := by
  obtain ⟨hres, -⟩ := sub8_spec a b c
  have ha := a.isLt
  apply BitVec.eq_of_toNat_eq
  rw [BitVec.toNat_ofNat]
  omega

/-- `DAA` after an addition of packed BCD bytes: the table of R201 at the sums of the tens and of the units. -/
theorem daa8_add8_bcd {x y : Byte} {c : Bool} {x1 x0 y1 y0 : Nat} (hx : x.toNat = 16 * x1 + x0)
    (hy : y.toNat = 16 * y1 + y0) (hx1 : x1 ≤ 9) (hx0 : x0 ≤ 9) (hy1 : y1 ≤ 9) (hy0 : y0 ≤ 9) :
    (daa8 (add8 x y c).res (add8 x y c).flags).res.toNat =
        16 * ((10 * (x1 + y1) + (x0 + y0 + c.toNat)) % 100 / 10) + (10 * (x1 + y1) + (x0 + y0 + c.toNat)) % 10 ∧
      ((daa8 (add8 x y c).res (add8 x y c).flags).flags.c = true ↔
        10 * (x1 + y1) + (x0 + y0 + c.toNat) ≥ 100) := by
  have hc : c.toNat ≤ 1 := by cases c <;> decide
  obtain ⟨hres, -, hn, hh, hcy⟩ := add8_spec x y c
  obtain ⟨tres, tcy⟩ := daa_table_add (x1 + y1) (by omega) (x0 + y0 + c.toNat) (by omega)
  have hs : x.toNat + y.toNat + c.toNat = 16 * (x1 + y1) + (x0 + y0 + c.toNat) := by omega
  have hl : x.toNat % 16 + y.toNat % 16 + c.toNat = x0 + y0 + c.toNat := by omega
  rw [hs] at hres hcy
  rw [hl] at hh
  rw [daa8_add hn, daa8_carry, hres, hn, ← tres, ← tcy]
  simp only [hh, hcy, true_and]

/-- `DAA` after a subtraction of packed BCD bytes: the table of R201 at the differences of the tens and of the units. -/
theorem daa8_sub8_bcd {x y : Byte} {c : Bool} {x1 x0 y1 y0 : Nat} (hx : x.toNat = 16 * x1 + x0)
    (hy : y.toNat = 16 * y1 + y0) (hx1 : x1 ≤ 9) (hx0 : x0 ≤ 9) (hy1 : y1 ≤ 9) (hy0 : y0 ≤ 9) :
    let diff : Int := 10 * ((x1 : Int) - y1) + ((x0 : Int) - y0 - c.toNat)
    ((daa8 (sub8 x y c).res (sub8 x y c).flags).res.toNat : Int) = 16 * (diff % 100 / 10) + diff % 10 ∧
      ((daa8 (sub8 x y c).res (sub8 x y c).flags).flags.c = true ↔ diff < 0) := by
  have hc : c.toNat ≤ 1 := by cases c <;> decide
  obtain ⟨hres, -, hn, hh, hcy⟩ := sub8_spec x y c
  obtain ⟨tres, tcy⟩ := daa_table_sub (x1 + 9 - y1) (by omega) (x0 + 10 - y0 - c.toNat) (by omega)
  have hp : ((x1 + 9 - y1 : Nat) : Int) - 9 = x1 - y1 := by omega
  have hq : ((x0 + 10 - y0 - c.toNat : Nat) : Int) - 10 = x0 - y0 - c.toNat := by omega
  have hs : (x.toNat : Int) - y.toNat - c.toNat = 16 * ((x1 : Int) - y1) + ((x0 : Int) - y0 - c.toNat) := by omega
  have hl : x.toNat % 16 < y.toNat % 16 + c.toNat ↔ x0 + 10 - y0 - c.toNat < 10 := by omega
  have hb : x.toNat < y.toNat + c.toNat ↔ 16 * ((x1 : Int) - y1) + ((x0 : Int) - y0 - c.toNat) < 0 := by omega
  rw [hp, hq] at tres tcy
  rw [hs] at hres
  rw [hl] at hh
  rw [hb] at hcy
  intro diff
  rw [daa8_sub hn, daa8_carry, hres, hn, ← tres, ← tcy]
  simp only [hh, hcy, Bool.true_eq_false, false_and, or_false, and_self]

end Sys2Proof.Machine
end

section
/-! PROOFS. The laws of the ALU beyond its single operations (42_alu8.md). -/

namespace Sys2Proof.Machine

/-- Settles O19: for the sum, the half-carry is the carry into bit 4; for the difference `r`, whose sum with the subtrahend
and the borrow is `a` again, the half-borrow is the carry of that sum. -/
theorem halfCarryXor : Obligations.HalfCarryXor := by
  intro a b c
  have hadd := add8_spec a b c
  have hsub := sub8_spec a b c
  refine ⟨hadd, hsub, ?_, ?_⟩
  · obtain ⟨-, -, -, hh, -⟩ := hadd
    have hx := xor_sum_bit4 a b c
    rw [hh]
    have hres : (add8 a b c).res = BitVec.ofNat 8 (a.toNat + b.toNat + c.toNat) := rfl
    rw [hres, hx, decide_eq_true_iff]
    omega
  · obtain ⟨hr, -, -, hh, -⟩ := hsub
    have hx := xor_sum_bit4 (sub8 a b c).res b c
    rw [sub8_res_add] at hx
    rw [hh, BitVec.xor_comm (a ^^^ b), BitVec.xor_comm a b, ← BitVec.xor_assoc, hx]
    simp
    omega

/-- Settles O20: the two bytes are the numbers of their digits, and the tables give the digits of the result. -/
theorem daaDecimal : Obligations.DaaDecimal := by
  intro x1 x0 y1 y0 c hx1 hx0 hy1 hy0 x y sum diff p q
  have hx : x.toNat = 16 * x1 + x0 := by
    rw [BitVec.toNat_ofNat]
    omega
  have hy : y.toNat = 16 * y1 + y0 := by
    rw [BitVec.toNat_ofNat]
    omega
  have hsum : sum = 10 * (x1 + y1) + (x0 + y0 + c.toNat) := by omega
  have hdiff : diff = 10 * ((x1 : Int) - y1) + ((x0 : Int) - y0 - c.toNat) := by omega
  obtain ⟨hp, hpc⟩ := daa8_add8_bcd (c := c) hx hy hx1 hx0 hy1 hy0
  obtain ⟨hq, hqc⟩ := daa8_sub8_bcd (c := c) hx hy hx1 hx0 hy1 hy0
  rw [hsum, hdiff]
  exact ⟨hp, hpc, hq, hqc⟩

end Sys2Proof.Machine
end

section
/-! SUPPORT. What every instruction does to PC and to the mode bits, and the word a pop gives after a push. -/

namespace Sys2Proof.Machine

/-- A pop after a push gives the word pushed, where the stack lies in cells that store (R25). -/
theorem popWord_push16 {s : State} {v : Word} (hm : Memory.wf s.mem = true) (h1 : PlainCell (s.sp - 1))
    (h2 : PlainCell (s.sp - 2)) : popWord (push16 s v) = v := by
  obtain ⟨hhi, hlo⟩ := push16_read (v := v) hm h1 h2
  have hsp : s.sp - 2 + 1 = s.sp - 1 := by bv_omega
  rw [popWord, push16_sp, hsp, hhi, hlo, mkWord_hi_lo]

/-- The mode bits as an instruction may leave them (R26, R27, R28): `IME` is written by `EI`, `DI` and `RETI` alone, the
fault by an undefined byte alone, and `halt_wait` by `HALT` alone, with `IME` 1. -/
structure ModeFrame (i : Instr) (s t : State) : Prop where
  ime : t.ime = s.ime ∨ i = .ei ∨ i = .di ∨ i = .reti
  fault : t.halted = s.halted ∧ t.fault = s.fault ∨ ∃ op, illegalByte i = some op
  haltWait : t.haltWait = s.haltWait ∨ i = .halt ∧ s.ime = true ∧ t.haltWait = true

/-- An instruction that leaves the four fields alone. -/
theorem ModeFrame.of_eq {i : Instr} {s t : State} (h1 : t.ime = s.ime) (h2 : t.halted = s.halted)
    (h3 : t.fault = s.fault) (h4 : t.haltWait = s.haltWait) : ModeFrame i s t :=
  ⟨.inl h1, .inl ⟨h2, h3⟩, .inl h4⟩

theorem execBase_mode (i : Instr) (s : State) (hp : i.wellFormed = true) : ∃ t, exec i s = .next t ∧ ModeFrame i s t := by
  cases i
  case prefixCb x => cases hp
  case ei | di => exact ⟨_, rfl, by simp, .inl ⟨rfl, rfl⟩, .inl rfl⟩
  case reti => exact ⟨_, rfl, by simp, .inl ⟨rfl, rfl⟩, .inl rfl⟩
  case halt =>
    refine ⟨_, rfl, .inl rfl, .inl ⟨rfl, rfl⟩, ?_⟩
    cases s.ime <;> simp
  case illegalD3 | illegalDB | illegalDD | illegalE3 | illegalE4 | illegalEB | illegalEC | illegalED | illegalF4 |
      illegalFC | illegalFD =>
    exact ⟨_, rfl, .inl rfl, .inr ⟨_, rfl⟩, .inl rfl⟩
  case jpCcNn cc | jrCcE cc | callCcNn cc | retCc cc =>
    refine ⟨_, rfl, ?_⟩
    split <;> exact .of_eq (by simp) (by simp) (by simp) (by simp)
  all_goals exact ⟨_, rfl, .of_eq (by simp) (by simp) (by simp) (by simp)⟩

theorem decodeCb_ne {op2 : Byte} {i : Instr} (h : (encode i).length = 1) : decodeCb op2 ≠ i := by
  rintro rfl
  rw [encode_decodeCb] at h
  cases h

/-- The row of the byte 0xCB has the frame of the row it selects: no row of the secondary map writes a mode bit. -/
theorem exec_mode (i : Instr) (s : State) : ∃ t, exec i s = .next t ∧ ModeFrame i s t := by
  by_cases hp : i.wellFormed = true
  · exact execBase_mode i s hp
  obtain ⟨op2, rfl⟩ : ∃ op2, i = .prefixCb op2 := by simpa [wellFormed_iff] using hp
  obtain ⟨t, ht, hime, hfault, hwait⟩ := execBase_mode (decodeCb op2) s ((wellFormed_iff _).2 (decodeCb_ne_prefix op2))
  refine ⟨t, (execPrefixCb_eq op2 s).trans ht, .of_eq ?_ ?_ ?_ ?_⟩
  · obtain h | h | h | h := hime
    · exact h
    all_goals exact absurd h (decodeCb_ne rfl)
  · obtain h | ⟨op, h⟩ := hfault
    · exact h.1
    · exact absurd rfl (decodeCb_ne (congrArg List.length (encode_of_illegalByte h).1))
  · obtain h | ⟨op, h⟩ := hfault
    · exact h.2
    · exact absurd rfl (decodeCb_ne (congrArg List.length (encode_of_illegalByte h).1))
  · obtain h | ⟨h, -⟩ := hwait
    · exact h
    · exact absurd h (decodeCb_ne rfl)

/-- An arm that ends in `finish` past the bytes of its encoding, after an effect that leaves PC. -/
theorem finish_pc_past {i : Instr} {s t : State} {len ticks : Nat} (hlen : (encode i).length = len)
    (hpc : t.pc = s.pc) : (finish len ticks t).pc = s.pc + BitVec.ofNat 16 (encode i).length := by
  rw [finish_pc, hpc, hlen]

theorem exec_pc_past (i : Instr) (s : State) (hp : i.wellFormed = true) (hset : setsPc i = false) :
    ∃ t, exec i s = .next t ∧ t.pc = s.pc + BitVec.ofNat 16 (encode i).length := by
  cases i
  case prefixCb x => cases hp
  case jpNn | jpCcNn | jpHl | jrE | jrCcE | callNn | callCcNn | ret | retCc | reti | rstT => cases hset
  case illegalD3 | illegalDB | illegalDD | illegalE3 | illegalE4 | illegalEB | illegalEC | illegalED | illegalF4 |
      illegalFC | illegalFD => cases hset
  all_goals exact ⟨_, rfl, finish_pc_past rfl (by simp)⟩

end Sys2Proof.Machine
end

section
/-! PROOFS. What holds of every instruction: PC, the mode bits, the devices (10_state.md section 1, 20_memory.md section 5);
and the round trip of `PUSH AF` and `POP AF`. -/

namespace Sys2Proof.Machine

/-- Settles O13: the word popped is the word pushed (`popWord_push16`), and the packed flags unpack to the flags. -/
theorem pushPopAf : Obligations.PushPopAf := by
  intro s t u hm h1 h2 ht hu
  cases ht
  cases hu
  have hw : popWord (finish 1 16 (push16 s (mkWord s.a (packFlags s.flags)))) = mkWord s.a (packFlags s.flags) :=
    popWord_push16 hm h1 h2
  refine ⟨?_, ?_, ?_⟩
  · rw [finish_a, hw, hiByte_mkWord]
  · rw [finish_flags, hw, loByte_mkWord, unpackFlags_packFlags]
  · simp

/-- Settles O39: every instruction that does not set PC ends in `finish` past its encoding (`exec_pc_past`). -/
theorem pcAdvances : Obligations.PcAdvances := by
  intro i s t hp hset ht
  obtain ⟨t', ht', hpc⟩ := exec_pc_past i s hp hset
  cases ht.symm.trans ht'
  exact hpc

/-- Settles O40: the three clauses are those of `ModeFrame`, read from the change back to its cause. -/
theorem modeBitWriters : Obligations.ModeBitWriters := by
  intro i s t ht
  obtain ⟨t', ht', hime, hfault, hwait⟩ := exec_mode i s
  cases ht.symm.trans ht'
  refine ⟨hime.resolve_left, fun h => hfault.resolve_left ?_, hwait.resolve_left⟩
  rintro ⟨hh, hf⟩
  exact h.elim (· hh) (· hf)

/-- Settles O41: the clauses are those of `CpuFrame`. -/
theorem devicesUntouchedByCpu : Obligations.DevicesUntouchedByCpu := by
  intro i s t h
  have f := exec_frame h
  exact ⟨f.tsub, f.lineCycles, f.searched, f.drawn, f.visible, f.fb, f.frameDone, f.frameCycles, f.joyDpad, f.joyBtn,
    f.inputs, f.cart, f.bootRom, f.div16⟩

end Sys2Proof.Machine
end

section
/-! PROOFS. The register file (10_state.md section 1), the returns (45_control_flow.md) and CPU control
(46_misc_control.md section 2). -/

namespace Sys2Proof.Machine

/-- Settles O6: the laws of `getReg`, `setReg` and the pairs, each by the register or the pair it names. -/
theorem registerFile : Obligations.RegisterFile := by
  refine ⟨getReg_setReg, ?_, ?_, getPair_setPair_same, ?_⟩
  · intro s r v
    cases r <;> rfl
  · intro s
    exact ⟨mkWord_toNat .., mkWord_toNat .., mkWord_toNat .., rfl⟩
  · intro s v
    exact ⟨rfl, rfl, rfl, rfl⟩

/-- Settles O28: a return taken jumps to the popped word with SP past it; one not taken is `finish` of the state before. -/
theorem returns : Obligations.Returns := by
  intro s cc holds back
  refine ⟨encodes_one rfl fun _ _ => rfl, rfl, encodes_retCc cc, jumps_of_condMet (cc := cc) rfl,
    runs_of_not_condMet (cc := cc) rfl, encodes_one rfl fun _ _ => rfl, rfl⟩

/-- Settles O29: each arm is `finish` of one mode bit's write; `HALT` writes `halt_wait` with `IME` or-ed in. -/
theorem cpuControl : Obligations.CpuControl := by
  intro s
  refine ⟨encodes_one rfl fun _ _ => rfl, rfl, encodes_one rfl fun _ _ => rfl, ?wait, ?noWait,
    encodes_one rfl fun _ _ => rfl, rfl, encodes_one rfl fun _ _ => rfl, rfl⟩
  case wait =>
    intro h
    have hw : (s.haltWait || s.ime) = true := by rw [h, Bool.or_true]
    exact runs_of_finish rfl (by rw [exec, execHalt, hw])
  case noWait =>
    intro h
    have hw : (s.haltWait || s.ime) = s.haltWait := by rw [h, Bool.or_false]
    exact runs_of_finish rfl (by rw [exec, execHalt, hw])

/-- Settles O30: `stopBehaviour` is `nop2` (log 6), so the arm is `finish` of the state before. -/
theorem stopAsNop2 : Obligations.StopAsNop2 := fun _ _ => ⟨encodes_two rfl fun _ => rfl, rfl⟩

/-- Settles O32: each of the eleven arms is `raiseIllegalOpcode` of its own byte. -/
theorem illegalOpcode : Obligations.IllegalOpcode := by
  intro s i op h
  cases i <;> cases h
  all_goals exact ⟨encodes_one rfl fun _ _ => rfl, rfl⟩

end Sys2Proof.Machine
end

section
/-! SUPPORT. The CPU read path and write path, one equation per case of 20_memory.md, and the frame of a store. -/

namespace Sys2Proof.Machine

/-! ### Reads -/

section
variable {s : State} {a : Word}

theorem memRead_overlay (h : s.bootMapped = true ∧ a.toNat ≤ 0x00FF) :
    memRead s a = s.bootRom.read Config.bootByte a.toNat := if_pos h

theorem memRead_rom (h1 : ¬ (s.bootMapped = true ∧ a.toNat ≤ 0x00FF)) (h2 : a.toNat < 0x8000) :
    memRead s a = romRead s a.toNat := (if_neg h1).trans (if_pos h2)

theorem memRead_external (h1 : 0xA000 ≤ a.toNat) (h2 : a.toNat ≤ 0xBFFF) :
    memRead s a = if s.cart = none then 0xFF else peek s a.toNat := by
  unfold memRead
  simp only [addrJOYP, addrDIV]
  rw [if_neg (by omega), if_neg (by omega)]
  by_cases hc : s.cart = none
  · rw [if_pos ⟨h1, h2, hc⟩, if_pos hc]
  · rw [if_neg (fun h => hc h.2.2), if_neg (by omega), if_neg (by omega), if_neg (by omega), if_neg hc]

theorem memRead_joyp (h : a.toNat = 0xFF00) : memRead s a = joypValue s := by
  simp [memRead, h, addrJOYP]

theorem memRead_div (h : a.toNat = 0xFF04) : memRead s a = hiByte s.div16 := by
  simp [memRead, h, addrJOYP, addrDIV]

theorem memRead_cell (h1 : 0x8000 ≤ a.toNat) (h2 : ¬ (0xA000 ≤ a.toNat ∧ a.toNat ≤ 0xBFFF))
    (h3 : ¬ (0xE000 ≤ a.toNat ∧ a.toNat ≤ 0xFDFF)) (h4 : a.toNat ≠ 0xFF00) (h5 : a.toNat ≠ 0xFF04) :
    memRead s a = peek s a.toNat := by
  unfold memRead
  dsimp only
  rw [if_neg (by omega), if_neg (by omega), if_neg (by omega), if_neg h3, if_neg h4, if_neg h5]

end

/-- Bits 7 and 6 of JOYP read 1, bits 5 and 4 are the selection (R37). -/
theorem joypValue_high (s : State) :
    (joypValue s).getLsbD 7 = true ∧ (joypValue s).getLsbD 6 = true ∧
      (joypValue s).getLsbD 5 = (peek s 0xFF00).getLsbD 5 ∧ (joypValue s).getLsbD 4 = (peek s 0xFF00).getLsbD 4 := by
  unfold joypValue
  dsimp only
  refine ⟨?_, ?_, ?_, ?_⟩ <;> rw [getLsbD_cat224] <;> simp

/-- A low bit of JOYP is the two masks under the selection (R37). -/
theorem joypValue_low (s : State) {i : Nat} (hi : i < 4) :
    (joypValue s).getLsbD i =
      (((peek s 0xFF00).getLsbD 4 || s.joyDpad.getLsbD i) && ((peek s 0xFF00).getLsbD 5 || s.joyBtn.getLsbD i)) := by
  have hones : ∀ i < 4, (0xF#4).getLsbD i = true := by decide
  have hsel : ∀ (b : Bool) (m : BitVec 4), (if b then 0xF#4 else m).getLsbD i = (b || m.getLsbD i) := by
    intro b m
    cases b
    · rfl
    · exact hones i hi
  unfold joypValue
  dsimp only
  rw [getLsbD_cat224, if_pos hi, BitVec.getLsbD_and, hsel, hsel]
  rfl

/-! ### Stores -/

/-- JOYP takes bits 5 and 4 of the byte and keeps its others (R79). -/
theorem joypStored_eq (old v : Byte) :
    BitVec.extractLsb' 6 2 old ++ BitVec.extractLsb' 4 2 v ++ BitVec.extractLsb' 0 4 old =
      (old &&& 0b11001111) ||| (v &&& 0b00110000) := by
  apply BitVec.eq_of_getLsbD_eq
  intro i hi
  rw [getLsbD_cat224]
  interval_cases i <;> simp

/-- STAT takes bits 7 to 3 of the byte and keeps its others (R83). -/
theorem statStored_eq (old v : Byte) :
    BitVec.extractLsb' 3 5 v ++ BitVec.extractLsb' 0 3 old = (v &&& 0b11111000) ||| (old &&& 0b00000111) := by
  apply BitVec.eq_of_getLsbD_eq
  intro i hi
  rw [getLsbD_cat53]
  interval_cases i <;> simp

section
variable {s : State} {a : Word} {v : Byte}

theorem memWrite_boot (h1 : a.toNat = 0xFF50) (h2 : v = 0x01) :
    memWrite s a v = { poke s a.toNat v with bootMapped := false } := by
  subst h2
  rw [h1]
  exact if_pos ⟨h1, rfl⟩

theorem memWrite_div (h : a.toNat = 0xFF04) : memWrite s a v = { s with div16 := 0 } := by
  simp [memWrite, h, addrBOOT, addrDIV]

theorem memWrite_dma (h : a.toNat = 0xFF46) : memWrite s a v = oamDma s v := by
  simp [memWrite, h, addrBOOT, addrDIV, addrDMA]

theorem memWrite_joyp (h : a.toNat = 0xFF00) :
    memWrite s a v = poke s a.toNat ((peek s a.toNat &&& 0b11001111) ||| (v &&& 0b00110000)) := by
  rw [← joypStored_eq]
  simp [memWrite, h, addrBOOT, addrDIV, addrDMA, addrJOYP]

theorem memWrite_stat (h : a.toNat = 0xFF41) :
    memWrite s a v = poke s a.toNat ((v &&& 0b11111000) ||| (peek s a.toNat &&& 0b00000111)) := by
  rw [← statStored_eq]
  simp [memWrite, h, addrBOOT, addrDIV, addrDMA, addrJOYP, addrSTAT]

theorem memWrite_external (h1 : 0xA000 ≤ a.toNat) (h2 : a.toNat ≤ 0xBFFF) :
    memWrite s a v = if s.cart = none then s else poke s a.toNat v := by
  unfold memWrite
  simp only [addrBOOT, addrDIV, addrDMA, addrJOYP, addrSTAT]
  iterate 7 rw [if_neg (by omega)]
  by_cases hc : s.cart = none
  · rw [if_pos ⟨h1, h2, hc⟩, if_pos hc]
  · rw [if_neg (fun h => hc h.2.2), if_neg (by omega), if_neg hc]

theorem memWrite_cell (h1 : 0x8000 ≤ a.toNat) (h2 : ¬ (0xA000 ≤ a.toNat ∧ a.toNat ≤ 0xBFFF))
    (h3 : ¬ (0xE000 ≤ a.toNat ∧ a.toNat ≤ 0xFDFF)) (h4 : a.toNat ≠ 0xFF00) (h5 : a.toNat ≠ 0xFF04)
    (h6 : a.toNat ≠ 0xFF41) (h7 : a.toNat ≠ 0xFF46) (h8 : ¬ (a.toNat = 0xFF50 ∧ v = 0x01)) :
    memWrite s a v = poke s a.toNat v := by
  unfold memWrite
  dsimp only
  rw [if_neg h8, if_neg (by omega), if_neg (by omega), if_neg h3, if_neg h5, if_neg h7, if_neg h4,
    if_neg (by omega), if_neg h6]

/-- A bank select where the cartridge has more than two banks (R74). -/
theorem bankSelect_banked {im : RomImage} (hc : s.cart = some im) (hb : romBanks im ≠ 2) :
    bankSelect s v =
      { s with
        romBank :=
          if v.toNat % 32 = 0x00 ∨ v.toNat % 32 = 0x14 then BitVec.ofNat 5 (v.toNat % 32 + 1)
          else BitVec.ofNat 5 (v.toNat % 32) } := by
  rw [bankSelect, hc]
  dsimp only
  rw [if_neg hb, aliasBank_eq _ (Nat.mod_lt _ (by decide)), apply_ite (BitVec.ofNat 5)]

theorem bankSelect_unbanked (h : s.cart = none ∨ ∃ im, s.cart = some im ∧ romBanks im = 2) : bankSelect s v = s := by
  obtain hc | ⟨im, hc, hb⟩ := h
  · rw [bankSelect, hc]
  · rw [bankSelect, hc]
    exact if_pos hb

end

/-- A read where a store does not reach answers as before: none of what the read depends on (`memRead_congr`) changes. -/
theorem memRead_memWrite_other {s : State} {a b : Word} {v : Byte} (h : ¬ Touches a b) :
    memRead (memWrite s a v) b = memRead s b := by
  have hb := b.isLt
  simp only [Touches, addrDMA, addrBOOT, not_or] at h
  obtain ⟨hne, hup, hdown, hdma, hboot, hbank⟩ := h
  have hne' : b.toNat ≠ a.toNat := fun h => hne (BitVec.eq_of_toNat_eq h)
  apply memRead_congr (memWrite_cart ..) (memWrite_bootRom ..)
  case hmap =>
    intro hlow
    exact memWrite_bootMapped_other (by simp only [addrBOOT]; omega)
  case hbank =>
    intro h1 h2
    exact memWrite_romBank_other (by omega)
  case hjd => exact memWrite_joyDpad ..
  case hjb => exact memWrite_joyBtn ..
  case hdiv =>
    intro hd
    exact memWrite_div16_other (by omega)
  case hm =>
    intro h1 h2
    exact peek_memWrite_other hne' (by omega) (by simp only [addrDMA]; omega)
  case hmir =>
    intro h1 h2
    exact peek_memWrite_other (by omega) (by omega) (by omega)

/-- The same for two stores, one after the other. -/
theorem memRead_writeTwice_other {s : State} {x y b : Word} {v w : Byte} (hx : ¬ Touches x b) (hy : ¬ Touches y b) :
    memRead (memWrite (memWrite s x v) y w) b = memRead s b :=
  (memRead_memWrite_other hy).trans (memRead_memWrite_other hx)

end Sys2Proof.Machine
end

section
/-! PROOFS. The memory controller (20_memory.md): the read and write paths case by case, the OAM DMA, and the frames. -/

namespace Sys2Proof.Machine

/-- Settles O33: the equation of each case of the read path. -/
theorem memReadCases : Obligations.MemReadCases := by
  intro s a n overlay
  refine ⟨memRead_overlay, ?noCart, ?fixed, ?window, memRead_external, memRead_mirror, ?joyp, ?div, memRead_cell⟩
  case noCart =>
    intro ho hn hc
    rw [memRead_rom ho hn, romRead, hc]
  case fixed =>
    intro im ho hn hc
    rw [memRead_rom ho (by omega), romRead, hc]
    exact congrArg (cartByte im) (if_pos hn)
  case window =>
    intro im h1 h2 hc
    rw [memRead_rom (by omega) h2, romRead, hc]
    dsimp only
    rw [romOffset, if_neg (by omega), apply_ite (cartByte im)]
  case joyp =>
    intro hn
    obtain ⟨h7, h6, h5, h4⟩ := joypValue_high s
    rw [hn, memRead_joyp hn]
    exact ⟨h7, h6, h5, h4, fun i hi => joypValue_low s hi⟩
  case div =>
    intro hn
    rw [memRead_div hn, hiByte_toNat]

/-- Settles O34: the equation of each case of the write path. -/
theorem memWriteCases : Obligations.MemWriteCases := by
  intro s a v n store
  refine ⟨memWrite_boot, ?banked, ?unbanked, ?rom, memWrite_mirror, memWrite_div, memWrite_joyp, memWrite_external,
    memWrite_stat, memWrite_cell⟩
  case banked =>
    intro im h1 h2 hc hb
    rw [memWrite_rom (by omega), if_pos ⟨h1, h2⟩, bankSelect_banked hc hb]
  case unbanked =>
    intro h1 h2 hc
    rw [memWrite_rom (by omega), if_pos ⟨h1, h2⟩, bankSelect_unbanked hc]
  case rom =>
    intro h
    rw [memWrite_rom (by omega), if_neg (by omega)]

/-- Settles O35: the copy reads each byte as the read path gave it before the copy (`peek_dmaCopy`), and reaches no cell
outside OAM (`peek_dmaCopy_other`). -/
theorem oamDmaCopies : Obligations.OamDmaCopies := by
  intro s v hm s0 t
  have ht : t = oamDma s v := memWrite_dma rfl
  have hm0 : Memory.wf (poke s addrDMA v).mem = true := Memory.write_wf hm (by decide)
  rw [ht]
  refine ⟨?copied, ?trigger, ?other, oamDma_eq s v⟩
  case copied =>
    intro k hk
    have hsrc : mkWord v 0x00 + BitVec.ofNat 16 k = BitVec.ofNat 16 (256 * v.toNat + k) := by
      apply BitVec.eq_of_toNat_eq
      rw [BitVec.toNat_add, mkWord_toNat]
      simp
    rw [← hsrc]
    exact peek_dmaCopy hm0 k 160 hk (Nat.le_refl _)
  case trigger => exact (peek_dmaCopy_other (by decide)).trans (peek_poke_same hm)
  case other =>
    intro n h1 h2
    exact (peek_dmaCopy_other (by omega)).trans (peek_poke_other h1)

/-- Settles O36: the frame of a read (`memRead_memWrite_other`) and of the state (`memWrite_eq`). -/
theorem storeFrame : Obligations.StoreFrame := fun s a v => ⟨fun _ => memRead_memWrite_other, memWrite_eq s a v⟩

/-- Settles O37: a cell that stores is one cell of memory, and a mirror address is the work RAM cell below it. -/
theorem readAfterWrite : Obligations.ReadAfterWrite := by
  intro s a v hm
  refine ⟨?plain, ?mirror⟩
  case plain =>
    intro h
    rw [memRead_plain h, memWrite_plain h, peek_poke_same hm]
  case mirror =>
    intro h1 h2
    have hp : PlainCell a := .inr (.inl ⟨h1, by omega⟩)
    have ha : (a + 0x2000).toNat = a.toNat + 0x2000 := by
      rw [BitVec.toNat_add]
      simp
      omega
    have hr : ∀ t, memRead t (a + 0x2000) = peek t a.toNat := by
      intro t
      rw [memRead_mirror (by omega) (by omega), ha, Nat.add_sub_cancel]
    have hw : memWrite s (a + 0x2000) v = poke s a.toNat v := by
      rw [memWrite_mirror (by omega) (by omega), ha, Nat.add_sub_cancel]
    rw [hr, hr, hw, memRead_plain hp, memRead_plain hp, memWrite_plain hp, peek_poke_same hm]
    exact ⟨rfl, rfl, rfl⟩

/-- Settles O38: each arm is one store, or two, at the address it computes, and updates that a read does not see. -/
theorem storingInstructionsFrame : Obligations.StoringInstructionsFrame := by
  intro s t src qq cc n nn b r i addr x y ht
  refine ⟨?one, ?two⟩
  case one =>
    intro hi h
    simp only [List.mem_cons, Prod.mk.injEq, List.not_mem_nil, or_false] at hi
    rcases hi with ⟨rfl, rfl⟩ | ⟨rfl, rfl⟩ | ⟨rfl, rfl⟩ | ⟨rfl, rfl⟩ | ⟨rfl, rfl⟩ | ⟨rfl, rfl⟩ | ⟨rfl, rfl⟩ |
      ⟨rfl, rfl⟩ | ⟨rfl, rfl⟩ | ⟨rfl, rfl⟩ | ⟨rfl, rfl⟩ | ⟨rfl, rfl⟩ | ⟨rfl, rfl⟩ | ⟨rfl, rfl⟩ | ⟨rfl, rfl⟩ |
      ⟨rfl, rfl⟩ | ⟨rfl, rfl⟩ | ⟨rfl, rfl⟩ | ⟨rfl, rfl⟩ | ⟨rfl, rfl⟩ | ⟨rfl, rfl⟩
    all_goals
      cases ht
      simp [memRead_memWrite_other h]
  case two =>
    intro hi hx hy
    simp only [List.mem_cons, Prod.mk.injEq, List.not_mem_nil, or_false] at hi
    rcases hi with ⟨rfl, rfl, rfl⟩ | ⟨rfl, rfl, rfl⟩ | ⟨rfl, rfl, rfl⟩ | ⟨rfl, rfl, rfl⟩ | ⟨rfl, rfl, rfl⟩ |
      ⟨rfl, rfl, rfl⟩
    case inr.inr.inr.inr.inl =>
      cases ht
      split
      · rw [memRead_finishAt, memRead_push16, memRead_writeTwice_other hx hy]
      · rw [memRead_finish]
    all_goals
      cases ht
      simp only [memRead_finish, memRead_finishAt, memRead_push16, memRead_writeTwice_other hx hy]

end Sys2Proof.Machine
end

section
/-! SUPPORT. What the entry of an interrupt leaves on the stack. -/

namespace Sys2Proof.Machine

theorem getReg_takeInterrupt (i : Nat) (s : State) (r : Reg8) : getReg (takeInterrupt i s) r = getReg s r := by
  cases r <;> simp [getReg]

theorem popWord_setPc (s : State) (p : Word) : popWord { s with pc := p } = popWord s := rfl

/-- The word on top of the stack after the entry of an interrupt is the interrupted PC (R313). -/
theorem popWord_takeInterrupt {s : State} (i : Nat) (hm : Memory.wf s.mem = true) (h1 : PlainCell (s.sp - 1))
    (h2 : PlainCell (s.sp - 2)) : popWord (takeInterrupt i s) = s.pc := by
  have hm' : Memory.wf (regWrite s addrIF (clearBit (regRead s addrIF) i)).mem = true :=
    Memory.write_wf hm (by decide)
  rw [takeInterrupt, popWord_setPc]
  exact popWord_push16 hm' h1 h2

end Sys2Proof.Machine
end

section
/-! PROOFS. The step (46_misc_control.md section 1, 60_exceptions.md sections 2 and 3): idle steps, the dispatcher, `HALT`,
and what no step undoes. -/

namespace Sys2Proof.Machine

/-- Settles O43: three bytes decode to what the fetch reads (`decode_three`), and the rest of the step is `afterCpu`. -/
theorem stepRunsDecoded : Obligations.StepRunsDecoded := by
  intro s t i rest h1 h2 hd ht
  rw [decode_three] at hd
  cases hd
  exact step_of_cpuStep ((cpuStep_run h1 h2).trans ht)

/-- Settles O44: an idle step is `afterCpu` with 4 ticks, and while halted the dispatcher does nothing. -/
theorem idleSteps : Obligations.IdleSteps := by
  refine ⟨fun s h => step_of_cpuStep (cpuStep_idle h), ?_⟩
  intro s t h ht
  rw [step_of_cpuStep (cpuStep_idle (.inl h))] at ht
  cases ht
  have hs : serviceInterrupts { s with cycles := 4 } = { s with cycles := 4 } := serviceInterrupts_idle (.inl h)
  have hpc := afterCpu_pc { s with cycles := 4 }
  have hsp := afterCpu_sp { s with cycles := 4 }
  have hime := afterCpu_ime { s with cycles := 4 }
  have hwait := afterCpu_haltWait { s with cycles := 4 }
  have hdiv := afterCpu_div16 { s with cycles := 4 }
  rw [hs] at hpc hsp hime hwait hdiv
  refine ⟨?_, ?_, hpc, hsp, ?_, hime, ?_, hwait, ?_, hdiv⟩
  · rw [afterCpu_halted, h]
  · rw [afterCpu_fault]
  · rw [afterCpu_flags]
  · intro r
    cases r <;> simp [getReg]
  · rw [afterCpu_cycles]

/-- Settles O45: the lowest interrupt requested and enabled is the pending one (`pendingInterrupt_some`), and its entry is
`takeInterrupt`; without one, with `IME` 0 or while halted the dispatcher is idle. -/
theorem interruptEntry : Obligations.InterruptEntry := by
  refine ⟨?_, ?_⟩
  · intro s i hh hime hi hif hie hlow
    refine serviceInterrupts_pending hh hime (pendingInterrupt_some hi ?_ ?_)
    · exact Bool.and_eq_true_iff.2 ⟨hif, hie⟩
    · intro j hj
      exact Bool.eq_false_iff.2 fun h => hlow j hj (Bool.and_eq_true_iff.1 h)
  · intro s h
    refine serviceInterrupts_idle (h.imp_right (Or.imp_right fun hnone => pendingInterrupt_none ?_))
    intro i hi
    exact Bool.eq_false_iff.2 fun h => hnone i hi (Bool.and_eq_true_iff.1 h)

/-- Settles O46: the entry pushes PC and `RETI` pops it (`popWord_push16`); neither writes another register. -/
theorem interruptRoundTrip : Obligations.InterruptRoundTrip := by
  intro s u i hm h1 h2 hu
  have hpop := popWord_takeInterrupt i hm h1 h2
  have hsp := takeInterrupt_sp i s
  have hflags := takeInterrupt_flags i s
  have hreg := getReg_takeInterrupt i s
  generalize takeInterrupt i s = t at *
  cases hu
  refine ⟨hpop, ?_, rfl, hflags, fun r => ?_⟩
  · show t.sp + 2 = s.sp
    rw [hsp, BitVec.sub_add_cancel]
  · rw [← hreg r]
    cases r <;> rfl

/-- Settles O47: a waiting CPU idles, and then the dispatcher does nothing or enters the pending interrupt's routine. -/
theorem haltWakes : Obligations.HaltWakes := by
  intro s t hh hwait hime ht
  rw [step_of_cpuStep (cpuStep_idle (.inr hwait))] at ht
  cases ht
  rw [afterCpu_haltWait, afterCpu_pc, afterCpu_ime, afterCpu_sp]
  refine ⟨?_, ?_⟩
  · intro hp
    rw [serviceInterrupts_idle (s := { s with cycles := 4 }) (.inr (.inr hp))]
    exact ⟨hwait, rfl, hime⟩
  · intro i hp
    rw [serviceInterrupts_pending (s := { s with cycles := 4 }) hh hime hp]
    exact ⟨takeInterrupt_haltWait .., rfl, takeInterrupt_ime .., rfl⟩

/-- Settles O48: the CPU's part keeps to `CpuFrame`, and what follows it writes none of these fields. -/
theorem neverUndone : Obligations.NeverUndone := by
  intro s t' h
  obtain ⟨t, ht, f, rfl⟩ := step_cases h
  refine ⟨?_, ?_, fun hb => afterCpu_bootMapped (f.bootMapped hb), ?_⟩
  · rw [afterCpu_cart, f.cart]
  · rw [afterCpu_bootRom, f.bootRom]
  · intro hh
    rw [cpuStep_idle (.inl hh)] at ht
    cases ht
    rw [afterCpu_halted, afterCpu_fault]
    exact ⟨hh, rfl⟩

end Sys2Proof.Machine
end

section
/-! SUPPORT. The timer and the host's input, cell by cell: what an increment of TIMA and a `HandleInput` call leave in memory;
and the three outcomes of a tick. -/

namespace Sys2Proof.Machine

/-- Below 0xFF an increment writes TIMA alone (R330). -/
theorem timaIncrement_count {s : State} (h : peek s 0xFF05 ≠ 0xFF) :
    timaIncrement s = regWrite s 0xFF05 (peek s 0xFF05 + 1) := if_neg h

/-- From 0xFF an increment reloads TIMA from TMA and requests interrupt 2 (R330). -/
theorem timaIncrement_overflow {s : State} (h : peek s 0xFF05 = 0xFF) :
    timaIncrement s = regWrite (regWrite s 0xFF05 (peek s 0xFF06)) 0xFF0F (peek s 0xFF0F ||| 0b00000100) := by
  have hif : regRead (regWrite s addrTIMA (regRead s addrTMA)) addrIF = peek s 0xFF0F := peek_regWrite_other (by decide)
  refine (if_pos h).trans ?_
  rw [hif]
  rfl

/-- An increment of TIMA reads nothing outside memory. -/
theorem timaIncrement_mem_congr {s u : State} (h : u.mem = s.mem) : (timaIncrement u).mem = (timaIncrement s).mem := by
  have hp : ∀ k, peek u k = peek s k := fun k => peek_congr h
  by_cases hff : peek s 0xFF05 = 0xFF
  · rw [timaIncrement_overflow hff, timaIncrement_overflow ((hp _).trans hff)]
    simp only [regWrite_mem, hp, h]
  · rw [timaIncrement_count hff, timaIncrement_count (ne_of_eq_of_ne (hp _) hff)]
    simp only [regWrite_mem, hp, h]

theorem timerTick_disabled {s : State} {n : Nat} (h : ¬ (peek s 0xFF07).getLsbD 2 = true) :
    timerTick n s = { s with div16 := s.div16 + BitVec.ofNat 16 n } := if_pos (Bool.eq_false_iff.2 h)

theorem timerTick_below {s : State} {n : Nat} (h : (peek s 0xFF07).getLsbD 2 = true)
    (hn : s.tsub + n < timerLimit s) :
    timerTick n s = { s with div16 := s.div16 + BitVec.ofNat 16 n, tsub := s.tsub + n } :=
  (if_neg fun hf => Bool.eq_false_iff.1 hf h).trans (if_neg (Nat.not_le.2 hn))

/-- At the threshold the sub-counter is cleared and TIMA goes up by one (R330). -/
theorem timerTick_reached {s : State} {n : Nat} (h : (peek s 0xFF07).getLsbD 2 = true)
    (hn : timerLimit s ≤ s.tsub + n) :
    (timerTick n s).tsub = 0 ∧ ∀ k, peek (timerTick n s) k = peek (timaIncrement s) k := by
  have ht : timerTick n s = _ := (if_neg fun hf => Bool.eq_false_iff.1 hf h).trans (if_pos hn)
  refine ⟨congrArg State.tsub ht, fun k => peek_congr ?_⟩
  exact (congrArg State.mem ht).trans (timaIncrement_mem_congr rfl)

/-- The thresholds of R41, as the statement writes them. -/
theorem timerLimit_eq (s : State) :
    timerLimit s =
      if (peek s 0xFF07).toNat % 4 = 0 then 1024
      else if (peek s 0xFF07).toNat % 4 = 1 then 16
      else if (peek s 0xFF07).toNat % 4 = 2 then 64 else 256 := by
  have hsel : ∀ k, timerThreshold k = if k = 0 then 1024 else if k = 1 then 16 else if k = 2 then 64 else 256 := by
    intro k
    match k with
    | 0 | 1 | 2 => rfl
    | k + 3 => simp [timerThreshold]
  exact hsel _

/-- A call with no newly pressed button leaves memory alone (R340). -/
theorem peek_handleInput_idle {s : State} {i : HostInput} (h : newlyPressed s i = false) (k : Nat) :
    peek (handleInput i s) k = peek s k := by
  rw [handleInput, h]
  rfl

/-- A newly pressed button requests interrupt 4 (R340). -/
theorem peek_handleInput_pressed {s : State} {i : HostInput} (hm : Memory.wf s.mem = true)
    (h : newlyPressed s i = true) : peek (handleInput i s) 0xFF0F = peek s 0xFF0F ||| 0b00010000 := by
  rw [handleInput, h]
  exact peek_regWrite_same hm

theorem peek_handleInput_other {s : State} {i : HostInput} {k : Nat} (hk : k ≠ 0xFF0F) :
    peek (handleInput i s) k = peek s k := by
  cases h : newlyPressed s i
  · exact peek_handleInput_idle h k
  · rw [handleInput, h]
    exact peek_regWrite_other hk

end Sys2Proof.Machine
end

section
/-! PROOFS. The timer, the host's input and the frame accounting (60_exceptions.md sections 3, 4 and 5). -/

namespace Sys2Proof.Machine.Devices

/-- Settles O49: the three outcomes of a tick (`timerTick_disabled`, `timerTick_below`, `timerTick_reached`), and the two
of the increment. -/
theorem timerTick : Obligations.TimerTick := by
  intro s n hm t threshold enabled
  have hlim : timerLimit s = threshold := timerLimit_eq s
  rw [← hlim]
  refine ⟨timerTick_eq n s, ?disabled, ?below, ?count, ?overflow⟩
  case disabled =>
    intro h
    have ht : t = _ := timerTick_disabled h
    rw [ht]
    exact ⟨rfl, rfl⟩
  case below =>
    intro h hn
    have ht : t = _ := timerTick_below h hn
    rw [ht]
    exact ⟨rfl, rfl⟩
  case count =>
    intro h hn hff
    obtain ⟨htsub, hpeek⟩ := timerTick_reached h hn
    rw [timaIncrement_count hff] at hpeek
    refine ⟨htsub, (hpeek _).trans (peek_regWrite_same hm), ?_⟩
    intro k hk
    exact (hpeek k).trans (peek_regWrite_other hk)
  case overflow =>
    intro h hn hff
    obtain ⟨htsub, hpeek⟩ := timerTick_reached h hn
    rw [timaIncrement_overflow hff] at hpeek
    refine ⟨htsub, ?_, (hpeek _).trans (peek_regWrite_same (regWrite_wf hm (by decide))), ?_⟩
    · exact (hpeek _).trans ((peek_regWrite_other (by decide)).trans (peek_regWrite_same hm))
    · intro k h1 h2
      exact (hpeek k).trans ((peek_regWrite_other h2).trans (peek_regWrite_other h1))

/-- Settles O58: at the boundary the host's turn follows, with the head of its list; a call requests interrupt 4 exactly where
a button is newly pressed (`newlyPressed_iff`). -/
theorem frameBoundary : Obligations.FrameBoundary := by
  intro s n hm t
  refine ⟨fun h => if_neg (Nat.not_le.2 h), fun h => ?_⟩
  have ht : t = hostTurn { s with frameCycles := s.frameCycles + n - 70224 } := if_pos h
  have hfc : t.frameCycles = s.frameCycles + n - 70224 := by
    rw [ht, hostTurn_eq]
  rw [hfc]
  refine ⟨rfl, ?noCall, ?none, ?call⟩
  case noCall =>
    intro hi
    rw [ht, hostTurn, hi]
  case none =>
    intro rest hi
    rw [ht, hostTurn, hi]
  case call =>
    intro i rest hi
    have hti : t = handleInput i { s with frameCycles := s.frameCycles + n - 70224, inputs := rest } := by
      rw [ht, hostTurn, hi]
    refine ⟨?_, ?_, ?_, ?_⟩
    · rw [hti, handleInput_eq]
    · intro k hk
      rw [hti]
      exact peek_handleInput_other hk
    · intro hp
      rw [hti]
      exact peek_handleInput_pressed hm ((newlyPressed_iff _ _).2 hp)
    · intro hp
      have hnot : newlyPressed { s with frameCycles := s.frameCycles + n - 70224, inputs := rest } i = false := by
        rw [Bool.eq_false_iff, ne_eq, newlyPressed_iff]
        rintro ⟨b, hb, h | h⟩
        · exact (hp b hb).1 h
        · exact (hp b hb).2 h
      rw [hti]
      exact peek_handleInput_idle hnot _

end Sys2Proof.Machine.Devices
end

section
/-! SUPPORT. A PPU update in its two cases, inside a line and at a crossing, and the bits of STAT and IF that the crossing
leaves. -/

namespace Sys2Proof.Machine

theorem putLow2_zero : ∀ b : Byte, putLow2 b 0 = b &&& 0b11111100 := by decide

/-- The bits of IF after the entry into a line: bit 1 where the line equals LYC with STAT bit 6, bit 0 at line 144 (R355,
R356). -/
theorem enterLine_if_bit {s : State} (l : Nat) (h : Memory.wf s.mem = true) (b : Nat) :
    (peek (enterLine l s) 0xFF0F).getLsbD b = true ↔
      (peek s 0xFF0F).getLsbD b = true ∨
        (b = 1 ∧ l < 144 ∧ l = (peek s 0xFF45).toNat ∧ (peek s 0xFF41).getLsbD 6 = true) ∨ (b = 0 ∧ l = 144) := by
  by_cases hb : b < 8
  · rw [enterLine_if l h]
    split
    · split
      · rw [getLsbD_setBit _ _ _ hb]
        grind
      · grind
    split
    · rw [getLsbD_setBit _ _ _ hb]
      grind
    · grind
  · rw [BitVec.getLsbD_of_ge _ _ (by omega), BitVec.getLsbD_of_ge _ _ (by omega)]
    grind

/-- Bit 2 of STAT is compared on the lines below 144 alone (R356), and the bits above it stay. -/
theorem enterLine_stat_bit {s : State} (l : Nat) (h : Memory.wf s.mem = true) {b : Nat} (hb : 2 ≤ b) :
    (peek (enterLine l s) 0xFF41).getLsbD b =
      if b = 2 ∧ l < 144 then decide (l = (peek s 0xFF45).toNat) else (peek s 0xFF41).getLsbD b := by
  by_cases hb8 : b < 8
  · rw [enterLine_stat l h]
    split
    · split
      · rw [getLsbD_setBit _ _ _ hb8]
        grind
      · rw [getLsbD_clearBit _ _ _ hb8]
        grind
    split
    · rw [getLsbD_putLow2]
      grind
    · grind
  · rw [BitVec.getLsbD_of_ge _ _ (by omega), BitVec.getLsbD_of_ge _ _ (by omega), if_neg (by omega)]

@[simp] theorem enterLine_lineCycles (l : Nat) (s : State) : (enterLine l s).lineCycles = s.lineCycles := by
  rw [enterLine_eq]

@[simp] theorem enterLine_searched (l : Nat) (s : State) : (enterLine l s).searched = s.searched := by
  rw [enterLine_eq]

@[simp] theorem enterLine_drawn (l : Nat) (s : State) : (enterLine l s).drawn = s.drawn := by rw [enterLine_eq]

@[simp] theorem linePhase_frameDone (s : State) : (linePhase s).frameDone = s.frameDone := by rw [linePhase_eq]

/-- The phase writes no bit of STAT above the mode. -/
theorem linePhase_stat_bit {s : State} (h : Memory.wf s.mem = true) {b : Nat} (hb : 2 ≤ b) :
    (peek (linePhase s) 0xFF41).getLsbD b = (peek s 0xFF41).getLsbD b := by
  obtain ⟨m, hm, -⟩ := linePhase_stat h
  rw [hm, getLsbD_putLow2, if_neg (by omega)]

/-- Early in a line the phase draws nothing, and searches where the line is visible. -/
theorem linePhase_early {s : State} (hc : s.lineCycles < 80) (hs : s.searched = false) :
    (linePhase s).drawn = s.drawn ∧ ((linePhase s).searched = true ↔ ly s < 144) := by
  by_cases hl : ly s < 144
  · rw [linePhase_search hl hc, oamSearch_drawn, oamSearch_searched]
    exact ⟨rfl, by simp [hl]⟩
  · obtain ⟨m, hm⟩ := linePhase_blank (s := s) (by omega)
    rw [hm]
    exact ⟨rfl, by simp [hs, hl]⟩

/-- The state at a crossing before the phase: the excess kept, the flags cleared, the next line entered (R350, R352). -/
def crossed (n : Nat) (s : State) : State :=
  enterLine ((peek s 0xFF44).toNat + 1) (startLine (addLineTicks n s))

section
variable {s : State} {n : Nat} (hm : Memory.wf s.mem = true) (hon : (peek s 0xFF40).getLsbD 7 = true)

include hm in
theorem startLine_wf : Memory.wf (startLine (addLineTicks n s)).mem = true := by
  simpa using hm

include hm in
theorem crossed_wf : Memory.wf (crossed n s).mem = true := enterLine_wf _ (startLine_wf hm)

include hon

theorem ppuUpdate_inside (hn : s.lineCycles + n < 456) : ppuUpdate n s = linePhase (addLineTicks n s) := by
  rw [ppuUpdate_on hon, if_neg (by omega)]

theorem ppuUpdate_crossing (hn : 456 ≤ s.lineCycles + n) : ppuUpdate n s = linePhase (crossed n s) := by
  rw [ppuUpdate_on hon, if_pos hn]
  rfl

theorem ppuUpdate_lineCycles :
    (ppuUpdate n s).lineCycles =
      if 456 ≤ s.lineCycles + n then s.lineCycles + n - 456 else s.lineCycles + n := by
  split
  · rename_i hc
    rw [ppuUpdate_crossing hon hc]
    simp [crossed]
  · rename_i hc
    rw [ppuUpdate_inside hon (by omega)]
    simp

theorem ppuUpdate_frameDone :
    (ppuUpdate n s).frameDone =
      if 456 ≤ s.lineCycles + n ∧ (peek s 0xFF44).toNat + 1 > 153 then s.frameDone + 1 else s.frameDone := by
  by_cases hc : 456 ≤ s.lineCycles + n
  · rw [ppuUpdate_crossing hon hc, linePhase_frameDone, crossed, enterLine_frameDone]
    simp [hc]
  · rw [ppuUpdate_inside hon (by omega), linePhase_frameDone, if_neg (by omega)]
    rfl

/-- At a crossing the line is new: not drawn, and searched at once where it is visible. -/
theorem ppuUpdate_crossing_flags (hc : 456 ≤ s.lineCycles + n) (hlc : s.lineCycles < 456) (hn : n ≤ 24) :
    (ppuUpdate n s).drawn = false ∧
      ((ppuUpdate n s).searched = true ↔ (peek (ppuUpdate n s) 0xFF44).toNat < 144) := by
  have hearly := linePhase_early (s := crossed n s) (by simp [crossed]; omega) (by simp [crossed])
  rw [ppuUpdate_crossing hon hc, linePhase_ly]
  exact ⟨hearly.1.trans (enterLine_drawn ..), hearly.2⟩

/-- An update writes no cell but LY, STAT and IF. -/
theorem ppuUpdate_other {k : Nat} (h1 : k ≠ 0xFF44) (h2 : k ≠ 0xFF41) (h3 : k ≠ 0xFF0F) :
    peek (ppuUpdate n s) k = peek s k := by
  by_cases hc : 456 ≤ s.lineCycles + n
  · rw [ppuUpdate_crossing hon hc, linePhase_other h2, crossed, enterLine_other _ h1 h2 h3, peek_startLine, peek_addLineTicks]
  · rw [ppuUpdate_inside hon (by omega)]
    exact linePhase_other h2

include hm

theorem ppuUpdate_ly :
    (peek (ppuUpdate n s) 0xFF44).toNat =
      if 456 ≤ s.lineCycles + n then
        (if (peek s 0xFF44).toNat + 1 > 153 then 0 else (peek s 0xFF44).toNat + 1)
      else (peek s 0xFF44).toNat := by
  split
  · rename_i hc
    rw [ppuUpdate_crossing hon hc, linePhase_ly]
    exact enterLine_ly (peek s 0xFF44).isLt (startLine_wf hm)
  · rename_i hc
    rw [ppuUpdate_inside hon (by omega), linePhase_ly]
    rfl

theorem ppuUpdate_if_bit (b : Nat) :
    (peek (ppuUpdate n s) 0xFF0F).getLsbD b = true ↔
      (peek s 0xFF0F).getLsbD b = true ∨
        456 ≤ s.lineCycles + n ∧
          (b = 1 ∧ (peek s 0xFF44).toNat + 1 < 144 ∧ (peek s 0xFF44).toNat + 1 = (peek s 0xFF45).toNat ∧
              (peek s 0xFF41).getLsbD 6 = true ∨
            b = 0 ∧ (peek s 0xFF44).toNat + 1 = 144) := by
  by_cases hc : 456 ≤ s.lineCycles + n
  · rw [ppuUpdate_crossing hon hc, linePhase_other (by decide)]
    simpa only [crossed, hc, true_and, peek_startLine, peek_addLineTicks] using enterLine_if_bit _ (startLine_wf hm) b
  · rw [ppuUpdate_inside hon (by omega), linePhase_other (by decide)]
    simp only [hc, false_and, or_false]
    exact Iff.rfl

theorem ppuUpdate_stat_bit {b : Nat} (hb : 2 ≤ b) :
    (peek (ppuUpdate n s) 0xFF41).getLsbD b =
      if 456 ≤ s.lineCycles + n ∧ b = 2 ∧ (peek s 0xFF44).toNat + 1 < 144 then
        decide ((peek s 0xFF44).toNat + 1 = (peek s 0xFF45).toNat)
      else (peek s 0xFF41).getLsbD b := by
  by_cases hc : 456 ≤ s.lineCycles + n
  · rw [ppuUpdate_crossing hon hc, linePhase_stat_bit (crossed_wf hm) hb]
    simpa only [crossed, hc, true_and, peek_startLine, peek_addLineTicks] using enterLine_stat_bit _ (startLine_wf hm) hb
  · rw [ppuUpdate_inside hon (by omega), linePhase_stat_bit (s := addLineTicks n s) hm hb, if_neg (by omega)]
    rfl

end

end Sys2Proof.Machine
end

section
/-! PROOFS. The scanline state machine (60_exceptions.md section 6): the LCD off, the line counter, the mode and the
comparison with LYC. -/

namespace Sys2Proof.Machine.Devices

/-- Settles O50: `lcdOff` writes LY, then the mode bits of STAT. -/
theorem lcdOff : Obligations.LcdOff := by
  intro s n hm hoff t
  have ht : t = Machine.lcdOff s := ppuUpdate_off n hoff
  rw [ht]
  refine ⟨rfl, ?ly, ?stat, ?other⟩
  case ly => exact (peek_regWrite_other (by decide)).trans (peek_regWrite_same hm)
  case stat =>
    refine (peek_regWrite_same (regWrite_wf hm (by decide))).trans ((putLow2_zero _).trans ?_)
    exact congrArg (· &&& _) (peek_regWrite_other (by decide))
  case other =>
    intro k h1 h2
    exact (peek_regWrite_other h2).trans (peek_regWrite_other h1)

/-- Settles O51: the counter, LY, the frame count and the bits of IF after an update, by whether the line is full. -/
theorem lineCounter : Obligations.LineCounter := by
  refine ⟨fun s => ?_, ?_⟩
  · rw [crossLine_eq]
    exact ⟨rfl, rfl⟩
  intro s n hm hon hlc hn t line
  refine ⟨ppuUpdate_eq n s, fun k => ppuUpdate_other hon, ?otherBits, ?inside, ?crossing, ?vblank⟩
  case otherBits =>
    intro b hb
    rw [Bool.eq_iff_iff, ppuUpdate_if_bit hm hon, or_iff_left]
    omega
  case inside =>
    intro hc
    refine ⟨?_, ?_, ?_⟩
    · rw [ppuUpdate_lineCycles hon, if_neg (by omega)]
    · rw [← BitVec.toNat_inj, ppuUpdate_ly hm hon, if_neg (by omega)]
    · rw [ppuUpdate_frameDone hon, if_neg (by omega)]
  case crossing =>
    intro hc
    refine ⟨?_, ?_, ?_, ppuUpdate_crossing_flags hon hc hlc hn⟩
    · rw [ppuUpdate_lineCycles hon, if_pos hc]
    · rw [ppuUpdate_ly hm hon, if_pos hc]
    · rw [ppuUpdate_frameDone hon]
      simp only [hc, true_and]
      rfl
  case vblank =>
    rw [Bool.eq_iff_iff, ppuUpdate_if_bit hm hon]
    simp [line]

/-- Settles O52: the phase writes the mode of the line and the tick, which it does not change (`linePhase_stat`). -/
theorem modeFollowsPosition : Obligations.ModeFollowsPosition := by
  intro s n hm hon t
  obtain ⟨u, hu, ht⟩ : ∃ u, Memory.wf u.mem = true ∧ t = linePhase u := by
    by_cases hc : 456 ≤ s.lineCycles + n
    · exact ⟨_, crossed_wf hm, ppuUpdate_crossing hon hc⟩
    · exact ⟨addLineTicks n s, hm, ppuUpdate_inside hon (by omega)⟩
  obtain ⟨m, hstat, hmode⟩ := linePhase_stat hu
  rw [ht, hstat, putLow2_toNat_mod, linePhase_ly, linePhase_lineCycles]
  exact hmode

/-- Settles O53: bit 2 and the bits above it in STAT, and bit 1 of IF, after an update. -/
theorem lycCompare : Obligations.LycCompare := by
  intro s n hm hon hlc hn t line compared equal
  refine ⟨?compared, ?notCompared, ?config⟩
  case compared =>
    intro ⟨hc, hl⟩
    refine ⟨?_, ?_⟩
    · rw [ppuUpdate_stat_bit hm hon (Nat.le_refl 2), if_pos ⟨hc, rfl, hl⟩]
      exact decide_eq_true_iff
    · rw [ppuUpdate_if_bit hm hon]
      simp only [hc, true_and, Nat.one_ne_zero, false_and, or_false]
      simp [show (peek s 0xFF44).toNat + 1 < 144 from hl]
      rfl
  case notCompared =>
    intro hnot
    refine ⟨?_, ?_⟩
    · rw [ppuUpdate_stat_bit hm hon (Nat.le_refl 2), if_neg fun h => hnot ⟨h.1, h.2.2⟩]
    · rw [Bool.eq_iff_iff, ppuUpdate_if_bit hm hon, or_iff_left]
      rintro ⟨hc, h | h⟩
      · exact hnot ⟨hc, h.2.1⟩
      · omega
  case config =>
    intro b hb
    rw [ppuUpdate_stat_bit hm hon (by omega), if_neg (by omega)]

end Sys2Proof.Machine.Devices
end

section
/-! SUPPORT. The sprite search against R354, and what a phase does to the sprites and the framebuffer. -/

namespace Sys2Proof.Machine

/-- An element that the first `n` of a sorted list leave out comes after `n` kept ones. -/
theorem pairwise_take_of_not_mem {α : Type} {R : α → α → Prop} {l : List α} {n : Nat} (hp : l.Pairwise R) {x : α}
    (hx : x ∈ l) (hn : x ∉ l.take n) : (l.take n).length = n ∧ ∀ y ∈ l.take n, R y x := by
  rw [← List.take_append_drop n l] at hp hx
  have hd : x ∈ l.drop n := (List.mem_append.1 hx).resolve_left hn
  have hlen : n < l.length := by
    rw [← Nat.not_le]
    intro h
    rw [List.drop_eq_nil_of_le h] at hd
    cases hd
  exact ⟨List.length_take_of_le (Nat.le_of_lt hlen), fun y hy => (List.pairwise_append.1 hp).2.2 y hy x hd⟩

/-- The entries on the line, before the first 10 are taken. -/
def onLineEntries (s : State) : List Sprite := ((List.range 40).map (oamEntry s)).filter (onLine s)

theorem searchOam_eq (s : State) : searchOam s = (onLineEntries s).take 10 := rfl

theorem mem_onLineEntries {s : State} {sp : Sprite} :
    sp ∈ onLineEntries s ↔ ∃ k < 40, sp = oamEntry s k ∧ onLine s (oamEntry s k) = true := by
  simp only [onLineEntries, List.mem_filter, List.mem_map, List.mem_range]
  constructor
  · rintro ⟨⟨k, hk, rfl⟩, h⟩
    exact ⟨k, hk, rfl, h⟩
  · rintro ⟨k, hk, rfl, h⟩
    exact ⟨⟨k, hk, rfl⟩, h⟩

theorem onLineEntries_pairwise (s : State) : (onLineEntries s).Pairwise fun p q => p.oamIndex < q.oamIndex := by
  refine List.Pairwise.filter _ ?_
  rw [List.pairwise_map]
  exact List.pairwise_lt_range

theorem onLine_iff (s : State) (k : Nat) :
    onLine s (oamEntry s k) = true ↔
      (peek s (0xFE00 + 4 * k)).toNat ≤ (peek s 0xFF44).toNat + 16 ∧
        (peek s 0xFF44).toNat + 16 <
          (peek s (0xFE00 + 4 * k)).toNat + if (peek s 0xFF40).getLsbD 2 = true then 16 else 8 :=
  Bool.and_eq_true_iff.trans (and_congr decide_eq_true_iff decide_eq_true_iff)

/-- The search keeps what R354 says. -/
theorem searchOam_isSearch (s : State) : IsSearch s (searchOam s) := by
  rw [searchOam_eq, IsSearch]
  refine ⟨?kept, ?ordered, List.length_take_le _ _, ?leftOut⟩
  case kept =>
    intro sp hsp
    obtain ⟨k, hk, he, h⟩ := mem_onLineEntries.1 (List.mem_of_mem_take hsp)
    exact ⟨k, hk, he, (onLine_iff s k).1 h⟩
  case ordered => exact (onLineEntries_pairwise s).sublist (List.take_sublist _ _)
  case leftOut =>
    intro k hk h hn
    exact pairwise_take_of_not_mem (onLineEntries_pairwise s) (mem_onLineEntries.2 ⟨k, hk, rfl, (onLine_iff s k).2 h⟩) hn

theorem oamSearch_setMode_done {s : State} (m : BitVec 2) (h : s.searched = true) :
    (oamSearch (setMode s m)).visible = s.visible := by
  rw [oamSearch_done (s := setMode s m) h, setMode_visible]

theorem oamSearch_setMode_new {s : State} (m : BitVec 2) (h : s.searched = false) :
    (oamSearch (setMode s m)).visible = searchOam (oamSearch (setMode s m)) :=
  (oamSearch_new (s := setMode s m) h).1

/-- In the modes 2 and 3 the phase searches where the line was not searched, in the registers and OAM it answers with. -/
theorem linePhase_searches {s : State} (hl : ly s < 144) (hc : s.lineCycles < 252) :
    (linePhase s).searched = true ∧ (s.searched = false → (linePhase s).visible = searchOam (linePhase s)) ∧
      (s.searched = true → (linePhase s).visible = s.visible) := by
  by_cases h80 : s.lineCycles < 80
  · rw [linePhase_search hl h80]
    exact ⟨oamSearch_searched _, oamSearch_setMode_new 2, oamSearch_setMode_done 2⟩
  · rw [linePhase_transfer hl (by omega) hc, pixelTransfer_searched, pixelTransfer_visible, searchOam_pixelTransfer]
    exact ⟨oamSearch_searched _, oamSearch_setMode_new 3, oamSearch_setMode_done 3⟩

/-- In the modes 0 and 1 the phase leaves the list and `searched` alone. -/
theorem linePhase_searched_other {s : State} (h : ¬ (ly s < 144 ∧ s.lineCycles < 252)) :
    (linePhase s).visible = s.visible ∧ (linePhase s).searched = s.searched := by
  obtain ⟨m, hm⟩ := linePhase_blank h
  rw [hm, setMode_visible, setMode_searched]
  exact ⟨rfl, rfl⟩

/-- In mode 3 the phase draws the row where it was not drawn, from the registers, memory and sprites it answers with. -/
theorem linePhase_draws {s : State} (hl : ly s < 144) (h80 : 80 ≤ s.lineCycles) (hc : s.lineCycles < 252) :
    (linePhase s).drawn = true ∧ (s.drawn = true → (linePhase s).fb = s.fb) ∧
      (s.drawn = false → Framebuffer.wf s.fb = true →
        (∀ x < 160, (linePhase s).fb.cell (ly s) x = pixel (linePhase s) x) ∧
          ∀ y x, y ≠ ly s → (linePhase s).fb.cell y x = s.fb.cell y x) := by
  have hly : ly (oamSearch (setMode s 3)) = ly s := by
    rw [← ly_setMode s 3]
    exact congrArg BitVec.toNat (peek_congr (oamSearch_mem _))
  have hfb : (oamSearch (setMode s 3)).fb = s.fb := by rw [oamSearch_fb]; rfl
  have hdrawn : (oamSearch (setMode s 3)).drawn = s.drawn := oamSearch_drawn _
  rw [linePhase_transfer hl h80 hc]
  refine ⟨pixelTransfer_drawn _, fun h => ?_, fun h hf => ?_⟩
  · rw [pixelTransfer_done (hdrawn.trans h), hfb]
  · have hcells := pixelTransfer_cell (hdrawn.trans h) (by rw [hfb]; exact hf)
    rw [hly, hfb] at hcells
    refine ⟨fun x hx => ?_, hcells.2⟩
    rw [pixel_pixelTransfer]
    exact hcells.1 x hx

/-- Outside mode 3 the phase leaves the framebuffer and `drawn` alone. -/
theorem linePhase_drawn_other {s : State} (h : ¬ (ly s < 144 ∧ 80 ≤ s.lineCycles ∧ s.lineCycles < 252)) :
    (linePhase s).fb = s.fb ∧ (linePhase s).drawn = s.drawn := by
  by_cases hs : ly s < 144 ∧ s.lineCycles < 80
  · rw [linePhase_search hs.1 hs.2, oamSearch_fb, oamSearch_drawn]
    exact ⟨rfl, rfl⟩
  · obtain ⟨m, hm⟩ := linePhase_blank (s := s) (by omega)
    rw [hm]
    exact ⟨rfl, rfl⟩

end Sys2Proof.Machine
end

section
/-! PROOFS. The sprite search and the pixel transfer (60_exceptions.md section 6): what they do, and when an update makes
them. -/

namespace Sys2Proof.Machine.Devices

/-- Settles O54: the search keeps what R354 says (`searchOam_isSearch`), and the phase of an update makes it in the modes 2 and
3 where the line is new or not searched (`linePhase_searches`). -/
theorem spriteSearch : Obligations.SpriteSearch := by
  refine ⟨fun s => oamSearch_done, ?search, ?update⟩
  case search =>
    intro s h
    refine ⟨(oamSearch_new h).2, ?_⟩
    have hv : (oamSearch s).visible = searchOam s := by rw [oamSearch, h]; rfl
    rw [hv]
    exact searchOam_isSearch s
  case update =>
    intro s n hon t crossed due
    obtain ⟨u, ht, hvis, -, hsearched, -⟩ := ppuUpdate_phase n hon
    have htu : t = linePhase u := ht
    have hly : (peek t 0xFF44).toNat = ly u := by rw [htu, linePhase_ly]; rfl
    have hlc : t.lineCycles = u.lineCycles := by rw [htu, linePhase_lineCycles]
    have hnew : crossed ∨ s.searched = false ↔ u.searched = false := by
      rw [← Bool.not_eq_true, ← Bool.not_eq_true, hsearched]
      tauto
    have hdue : due ↔ (ly u < 144 ∧ u.lineCycles < 252) ∧ u.searched = false := by
      simp only [due, hly, hlc, hnew, and_assoc]
    rw [hdue, htu, ← hvis, ← hsearched]
    by_cases hmode : ly u < 144 ∧ u.lineCycles < 252
    · obtain ⟨hs, hsearch, hkept⟩ := linePhase_searches hmode.1 hmode.2
      refine ⟨fun h => ⟨?_, hs⟩, fun h => ?_⟩
      · rw [hsearch h.2]
        exact searchOam_isSearch _
      · have hu : u.searched = true := by
          rw [← Bool.not_eq_false]
          exact fun hf => h ⟨hmode, hf⟩
        rw [hkept hu, hs, hu]
        exact ⟨rfl, Iff.rfl⟩
    · obtain ⟨hv, hs⟩ := linePhase_searched_other hmode
      rw [hv, hs]
      exact ⟨fun h => absurd h.1 hmode, fun _ => ⟨rfl, Iff.rfl⟩⟩

/-- Settles O55: the transfer writes row LY (`pixelTransfer_cell`), and the phase of an update makes it in mode 3 where the
line is new or not drawn (`linePhase_draws`). -/
theorem rowDrawnOnce : Obligations.RowDrawnOnce := by
  refine ⟨fun s => pixelTransfer_done, ?transfer, ?update⟩
  case transfer =>
    intro s hf hd
    obtain ⟨hrow, hother⟩ := pixelTransfer_cell hd hf
    refine ⟨hrow, hother, ?_⟩
    rw [pixelTransfer_new hd]
  case update =>
    intro s n hf hon t line crossed due
    obtain ⟨u, ht, -, hfb, -, hdrawn⟩ := ppuUpdate_phase n hon
    have htu : t = linePhase u := ht
    have hly : line = ly u := by
      show (peek t 0xFF44).toNat = ly u
      rw [htu, linePhase_ly]
      rfl
    have hlc : t.lineCycles = u.lineCycles := by rw [htu, linePhase_lineCycles]
    have hnew : crossed ∨ s.drawn = false ↔ u.drawn = false := by
      rw [← Bool.not_eq_true, ← Bool.not_eq_true, hdrawn]
      tauto
    have hdue : due ↔ (ly u < 144 ∧ 80 ≤ u.lineCycles ∧ u.lineCycles < 252) ∧ u.drawn = false := by
      simp only [due, hly, hlc, hnew, and_assoc]
    rw [hdue, hly, htu, ← hfb, ← hdrawn]
    by_cases hmode : ly u < 144 ∧ 80 ≤ u.lineCycles ∧ u.lineCycles < 252
    · obtain ⟨hd, hkept, hdraw⟩ := linePhase_draws hmode.1 hmode.2.1 hmode.2.2
      refine ⟨fun h => ?_, fun h => ?_⟩
      · obtain ⟨hrow, hother⟩ := hdraw h.2 (by rw [hfb]; exact hf)
        exact ⟨hrow, hother, hd⟩
      · have hu : u.drawn = true := by
          rw [← Bool.not_eq_false]
          exact fun hf => h ⟨hmode, hf⟩
        rw [hkept hu, hd, hu]
        exact ⟨rfl, Iff.rfl⟩
    · obtain ⟨hf', hd⟩ := linePhase_drawn_other hmode
      rw [hf', hd]
      exact ⟨fun h => absurd h.1 hmode, fun _ => ⟨rfl, Iff.rfl⟩⟩

end Sys2Proof.Machine.Devices
end

section
/-! SUPPORT. Pixels in numbers: the colour index from the two bit planes, the shade from a palette register, the address of a
tile, and the multiplexer over a list of sprites (60_exceptions.md R358 to R361). -/

namespace Sys2Proof.Machine

theorem tilePixel_toNat (s : State) (a col row : Nat) :
    (tilePixel s a col row).toNat =
      2 * ((peek s (a + 2 * row + 1)).getLsbD (7 - col)).toNat + ((peek s (a + 2 * row)).getLsbD (7 - col)).toNat := by
  have hcat : ∀ x y : Bool, (BitVec.ofBool x ++ BitVec.ofBool y).toNat = 2 * x.toNat + y.toNat := by decide
  exact hcat _ _

theorem paletteShade_toNat (pal : Byte) (i : BitVec 2) : (paletteShade pal i).toNat = pal.toNat / 4 ^ i.toNat % 4 := by
  rw [paletteShade, BitVec.extractLsb'_toNat, Nat.shiftRight_eq_div_pow, Nat.pow_mul]

/-- The tile address, with the tile number unsigned, or signed around 0x9000 (R360). -/
theorem tileAddr_eq (s : State) (t : Byte) :
    tileAddr s t =
      if (peek s 0xFF40).getLsbD 4 = true then 0x8000 + 16 * t.toNat
      else if t.toNat < 128 then 0x9000 + 16 * t.toNat else 0x8000 + 16 * t.toNat := by
  have hsigned : ((0x9000 : Int) + 16 * t.toInt).toNat =
      if t.toNat < 128 then 0x9000 + 16 * t.toNat else 0x8000 + 16 * t.toNat := by
    have ht := t.isLt
    rw [BitVec.toInt_eq_toNat_cond]
    split <;> split <;> omega
  rw [← hsigned]
  rfl

/-- The cell of a map, in the terms of R358 to R360: `row` is the address of the two bit planes. -/
theorem mapCell_spec {s : State} {base px py row : Nat} {t : Byte} (ht : t = peek s (base + 32 * (py / 8) + px / 8))
    (h1 : (peek s 0xFF40).getLsbD 4 = true → row = 0x8000 + 16 * t.toNat + 2 * (py % 8))
    (h2 : ¬ (peek s 0xFF40).getLsbD 4 = true → t.toNat < 128 → row = 0x9000 + 16 * t.toNat + 2 * (py % 8))
    (h3 : ¬ (peek s 0xFF40).getLsbD 4 = true → 128 ≤ t.toNat → row = 0x8000 + 16 * t.toNat + 2 * (py % 8)) :
    (mapCell s base px py).index.toNat =
        2 * ((peek s (row + 1)).getLsbD (7 - px % 8)).toNat + ((peek s row).getLsbD (7 - px % 8)).toNat ∧
      (mapCell s base px py).shade.toNat =
        (peek s 0xFF47).toNat / 4 ^ (mapCell s base px py).index.toNat % 4 ∧
      (mapCell s base px py).isSprite = false := by
  have hrow : row = tileAddr s t + 2 * (py % 8) := by
    rw [tileAddr_eq]
    split
    · exact h1 ‹_›
    split
    · exact h2 ‹_› ‹_›
    · exact h3 ‹_› (by omega)
  rw [hrow, ht]
  exact ⟨tilePixel_toNat .., paletteShade_toNat .., rfl⟩

theorem eq_of_choice {p : Bool} {a b c : Nat} (h1 : p = true → c = a) (h2 : ¬ p = true → c = b) :
    c = if p then a else b := by
  cases p
  · exact h2 (by decide)
  · exact h1 rfl

theorem windowCovers_iff (s : State) (x : Nat) :
    windowCovers s x = true ↔
      (peek s 0xFF40).getLsbD 5 = true ∧ (peek s 0xFF4A).toNat ≤ (peek s 0xFF44).toNat ∧
        (peek s 0xFF4B).toNat ≤ x + 7 := by
  rw [windowCovers, Bool.and_eq_true_iff, Bool.and_eq_true_iff, decide_eq_true_iff, decide_eq_true_iff, and_assoc]
  exact Iff.rfl

/-! ### The multiplexer -/

section
variable {s : State} {x : Nat} {bg : FbCell}

/-- Transparent sprites before the others do not count. -/
theorem spriteMux_append {before l : List Sprite} (h : ∀ q ∈ before, spriteIndex s x q = 0) :
    spriteMux s x bg (before ++ l) = spriteMux s x bg l := by
  induction before with
  | nil => rfl
  | cons sp rest ih =>
    rw [List.cons_append, spriteMux, if_pos (h sp List.mem_cons_self), ih fun q hq => h q (List.mem_cons_of_mem _ hq)]

theorem spriteMux_transparent {l : List Sprite} (h : ∀ sp ∈ l, spriteIndex s x sp = 0) : spriteMux s x bg l = bg := by
  rw [← List.append_nil l, spriteMux_append h]
  rfl

/-- An opaque sprite in front decides (R361). -/
theorem spriteMux_opaque {sp : Sprite} {rest : List Sprite} (h : spriteIndex s x sp ≠ 0) :
    spriteMux s x bg (sp :: rest) =
      if sp.flags.getLsbD 7 = true ∧ bg.index ≠ 0 then bg
      else
        { shade := paletteShade (spritePalette s sp) (spriteIndex s x sp)
          index := spriteIndex s x sp
          isSprite := true } := if_neg h

/-- What the multiplexer shows is the cell under the sprites, or a pixel of a sprite that is not transparent. -/
theorem spriteMux_cases (l : List Sprite) : spriteMux s x bg l = bg ∨ (spriteMux s x bg l).index ≠ 0 := by
  induction l with
  | nil => exact .inl rfl
  | cons sp rest ih =>
    by_cases h : spriteIndex s x sp = 0
    · rw [spriteMux, if_pos h]
      exact ih
    · rw [spriteMux_opaque h]
      split
      · exact .inl rfl
      · exact .inr h

end

theorem baseCell_isSprite (s : State) (x : Nat) : (baseCell s x).isSprite = false := by
  unfold baseCell backgroundCell
  split
  · rfl
  · split <;> rfl

theorem pixel_off {s : State} {x : Nat} (h : (peek s 0xFF40).getLsbD 1 = false) : pixel s x = baseCell s x :=
  if_neg (by rw [show lcdcBit s 1 = false from h]; decide)

theorem pixel_on {s : State} {x : Nat} (h : (peek s 0xFF40).getLsbD 1 = true) :
    pixel s x = spriteMux s x (baseCell s x) s.visible := if_pos h

theorem spritePalette_eq (s : State) (sp : Sprite) :
    spritePalette s sp = peek s (if sp.flags.getLsbD 4 = true then 0xFF49 else 0xFF48) := by
  rw [apply_ite (peek s)]
  rfl

/-! ### The colour index of a sprite -/

theorem putBit_zero_toNat : ∀ (b : Byte) (x : Bool), (putBit b 0 x).toNat = 2 * (b.toNat / 2) + x.toNat := by decide

theorem spriteHeight_eq (s : State) : spriteHeight s = if (peek s 0xFF40).getLsbD 2 = true then 16 else 8 := rfl

theorem spriteIndex_outside {s : State} {x : Nat} {sp : Sprite} (h : ¬ (sp.x.toNat ≤ x + 8 ∧ x < sp.x.toNat)) :
    spriteIndex s x sp = 0 := by
  rw [spriteIndex]
  dsimp only
  rw [if_pos (by omega)]

/-- In column `col` of the sprite the index is the pixel of its tile there, flipped where flag 5 says so (R361). -/
theorem spriteIndex_inside {s : State} {x col : Nat} {sp : Sprite} (hx : sp.x.toNat + col = x + 8) (hc : col < 8) :
    spriteIndex s x sp =
      tilePixel s (0x8000 + 16 * (spriteTile s sp).toNat) (if sp.flags.getLsbD 5 = true then 7 - col else col)
        (spriteRow s sp % 8).toNat := by
  have hcol : (x : Int) - ((sp.x.toNat : Int) - 8) = col := by omega
  rw [spriteIndex]
  dsimp only
  rw [hcol, if_neg (by omega)]
  rfl

/-- The row of the sprite on the line, flipped where flag 6 says so, for a row inside it. -/
theorem spriteRow_inside {s : State} {sp : Sprite} {row : Nat}
    (hy : sp.y.toNat + row = (peek s 0xFF44).toNat + 16) (hr : row < spriteHeight s) :
    spriteRow s sp = ((if sp.flags.getLsbD 6 = true then spriteHeight s - 1 - row else row : Nat) : Int) := by
  have hrow : (ly s : Int) + 16 - sp.y.toNat = row := by
    have : ly s = (peek s 0xFF44).toNat := rfl
    omega
  rw [spriteRow, hrow]
  show (if sp.flags.getLsbD 6 = true then _ else _ : Int) = _
  split <;> omega

/-- The tile that holds row `r` of the sprite (R361). -/
theorem spriteTile_inside {s : State} {sp : Sprite} {r : Nat} (hr : spriteRow s sp = r) (hlt : r < spriteHeight s) :
    (spriteTile s sp).toNat = if spriteHeight s = 16 then 2 * (sp.tile.toNat / 2) + r / 8 else sp.tile.toNat := by
  rw [spriteTile, hr]
  split
  · rename_i h16
    rw [putBit_zero_toNat]
    by_cases h8 : 8 ≤ r
    · rw [decide_eq_true (by omega)]
      simp
      omega
    · rw [decide_eq_false (by omega)]
      simp
      omega
  · rfl

end Sys2Proof.Machine
end

section
/-! PROOFS. The pixels of a line (60_exceptions.md section 6), and the state after reset (10_state.md section 6). -/

namespace Sys2Proof.Machine.Devices

/-- Settles O56: the cell is the window's, the background's or blank, and a cell of a map is `mapCell_spec`. -/
theorem backgroundAndWindow : Obligations.BackgroundAndWindow := by
  intro s x hx reg lcdc mapped window
  have hw : windowCovers s x = true ↔ window := windowCovers_iff s x
  refine ⟨?window, ?background, ?blank⟩
  case window =>
    intro h base hb1 hb0 t ht row h1 h2 h3
    have hc : baseCell s x = mapCell s base (x + 7 - reg 0xFF4B) (reg 0xFF44 - reg 0xFF4A) := by
      rw [eq_of_choice hb1 hb0]
      exact if_pos (hw.2 h)
    rw [hc]
    exact mapCell_spec ht h1 h2 h3
  case background =>
    intro h h0 base hb1 hb0 t ht row h1 h2 h3
    have hc : baseCell s x = mapCell s base ((x + reg 0xFF43) % 256) ((reg 0xFF44 + reg 0xFF42) % 256) := by
      rw [eq_of_choice hb1 hb0]
      exact (if_neg (mt hw.1 h)).trans (if_pos h0)
    rw [hc]
    exact mapCell_spec ht h1 h2 h3
  case blank =>
    intro h h0
    exact (if_neg (mt hw.1 h)).trans (if_neg h0)

/-- Settles O57: the multiplexer skips transparent sprites (`spriteMux_append`) and the first opaque one decides
(`spriteMux_opaque`); the index of a sprite comes from its tile at the flipped column and row. -/
theorem spriteMultiplexer : Obligations.SpriteMultiplexer := by
  intro s x
  refine ⟨pixel_off, ?transparent, ?firstOpaque, ?index, fun sp => spriteIndex_outside, ?inside⟩
  case transparent =>
    intro h
    cases hon : (peek s 0xFF40).getLsbD 1
    · exact pixel_off hon
    · rw [pixel_on hon, spriteMux_transparent h]
  case firstOpaque =>
    intro before after sp hon hvis hbefore hsp palette
    have hp : palette = spritePalette s sp := (spritePalette_eq s sp).symm
    rw [pixel_on hon, hvis, spriteMux_append hbefore, spriteMux_opaque hsp, hp]
    refine ⟨fun h => if_pos h, fun h => ?_⟩
    rw [if_neg h]
    exact ⟨rfl, rfl, paletteShade_toNat ..⟩
  case index =>
    intro h
    have hne : pixel s x ≠ baseCell s x := fun he => by
      rw [he, baseCell_isSprite] at h
      cases h
    have hon : (peek s 0xFF40).getLsbD 1 = true := by
      rw [← Bool.not_eq_false]
      exact fun hoff => hne (pixel_off hoff)
    rw [pixel_on hon] at hne ⊢
    exact (spriteMux_cases _).resolve_left hne
  case inside =>
    intro sp height col row hh hx hc hy hr c r tile
    have hheight : height = spriteHeight s := hh
    have hlt : r < spriteHeight s := by
      have : r = if sp.flags.getLsbD 6 = true then height - 1 - row else row := rfl
      split at this <;> omega
    have hrow : spriteRow s sp = r := by
      rw [spriteRow_inside hy (hheight ▸ hr), ← hheight]
    have htile : (spriteTile s sp).toNat = tile := by
      rw [spriteTile_inside hrow hlt, ← hheight]
    have hmod : ((r : Int) % 8).toNat = r % 8 := by omega
    rw [spriteIndex_inside hx hc, tilePixel_toNat, htile, hrow, hmod]

/-- Settles O42: the state after reset lists no memory cell, so a cell reads as `resetByte`, and no framebuffer row. -/
theorem resetValues : Obligations.ResetValues := by
  refine ⟨?cpu, ?registers, rfl, rfl, ?internal, ?framebuffer⟩
  case cpu => exact ⟨rfl, rfl, rfl, rfl, rfl, rfl, rfl, rfl, rfl, rfl, rfl, rfl, rfl, rfl, rfl⟩
  case registers =>
    intro n h1 h2 hdiv
    obtain h | h := Nat.lt_or_gt_of_ne hdiv
    · interval_cases n <;> rfl
    · interval_cases n <;> rfl
  case internal => exact ⟨rfl, rfl, rfl, rfl, rfl, rfl, rfl, rfl, rfl, rfl, rfl, rfl⟩
  case framebuffer =>
    intro y x
    exact (List.getD_eq_getElem?_getD ..).trans (List.getElem?_getD_replicate_default_eq ..)

end Sys2Proof.Machine.Devices
end
